-- ==== Sys2Proof/Word.lean ====
section
/-! DEFINITION. The words of the ProtocolEngine: widths of the data registers and the one-bit enumerations of the
line, of the handle and of the handshake (spec/30_encoding.md R64). The enumerations are tagged variants, as
R64's source asks; their one-bit codes stand in `Sys2Proof/Decode.lean`. -/

namespace Sys2Proof

/-- A data byte: 8 bits, unsigned (spec/00_scope.md R6, "data bytes are 8 bits"). -/
abbrev Byte := BitVec 8

/-- A raw reading: 16 bits, unsigned, a count of tenths (R6, R22). -/
abbrev Raw := BitVec 16

/-- The level of the line, High = 1 and Low = 0 (R8, R64). -/
inductive Level where
  | low
  | high
  deriving DecidableEq, Repr, Inhabited

/-- The direction of the line port, Output = 1 and Input = 0 (R8, R64). -/
inductive PinMode where
  | input
  | output
  deriving DecidableEq, Repr, Inhabited

/-- SensorVariant: selects the handshake hold time and nothing else (R17, R64). -/
inductive Variant where
  | variantA
  | variantB
  deriving DecidableEq, Repr, Inhabited

/-- The two-valued response of the handshake, FAILURE = 0 and SUCCESS = 1 (R18, R64). -/
inductive Response where
  | failure
  | success
  deriving DecidableEq, Repr, Inhabited

end Sys2Proof
end

