-- ==== Sys2Proof/Syntax.lean ====
section
/-! DEFINITION. The syntax of the ProtocolEngine: the thirteen operations of spec/opcode_table.json (three host
commands, ten phase operations), the two instruction formats, the result kinds, the frame and the input tuple of
one tick. No operation has an operand field (spec/30_encoding.md R62, R67). -/

namespace Sys2Proof

/-- Every row of spec/opcode_table.json. The first three are the host commands of format CMD (R61), the other ten
the phase operations of format PH (R62). -/
inductive Instr where
  /-- `NOP`, R80. -/
  | nop
  /-- `READ.A`, R81. -/
  | readA
  /-- `READ.B`, R82. -/
  | readB
  /-- `IDLE`, R84. -/
  | idle
  /-- `HS_LOW`, R90. -/
  | hsLow
  /-- `HS_HIGH`, R91. -/
  | hsHigh
  /-- `HS_WAIT1`, R92. -/
  | hsWait1
  /-- `HS_WAIT2`, R93. -/
  | hsWait2
  /-- `HS_RELEASE`, R94. -/
  | hsRelease
  /-- `BIT_WAIT_HIGH`, R105. -/
  | bitWaitHigh
  /-- `BIT_DELAY`, R106. -/
  | bitDelay
  /-- `BIT_WAIT_LOW`, R107. -/
  | bitWaitLow
  /-- `VALIDATE`, R120. -/
  | validate
  deriving DecidableEq, Repr

/-- The sequencer's position, an enumeration of exactly ten values so that no other exists (R11, R62). -/
inductive Phase where
  | idle
  | hsLow
  | hsHigh
  | hsWait1
  | hsWait2
  | hsRelease
  | bitWaitHigh
  | bitDelay
  | bitWaitLow
  | validate
  deriving DecidableEq, Repr, Inhabited

/-- What a command word means: all four words are defined and there is no reserved command (R61). -/
inductive Command where
  | nop
  | readA
  | readB
  deriving DecidableEq, Repr

/-- The two formats in which an operation is encoded: CMD of two bits and PH of four (R60). -/
inductive Format where
  | cmd
  | ph
  deriving DecidableEq, Repr

/-- The kind of the last completed read, `NONE` before any (R20, R63). -/
inductive Status where
  | none
  | ok
  | noResponse
  | timeout
  | checksumMismatch
  deriving DecidableEq, Repr, Inhabited

/-- The four kinds a read can end with: the codes that `complete(code)` takes (R85). -/
inductive ResultKind where
  | ok
  | noResponse
  | timeout
  | checksumMismatch
  deriving DecidableEq, Repr

/-- Which byte of the frame: 0 humidityHigh, 1 humidityLow, 2 tempHigh, 3 tempLow, 4 checksum (R13). The three-bit
register holds 0 to 4 only; 5 to 7 are reserved values that this type does not have (R68). `N_BYTES` = 5 is fixed by
the frame format and not to be varied (R6, R173). -/
abbrev ByteIdx := Fin 5

/-- How many bits of the current byte are complete, 0 to 7 (R14). `N_BITS` = 8 is fixed likewise (R6, R173). -/
abbrev BitCnt := Fin 8

/-- RawFrame: exactly five unsigned bytes, at the indices 0 to 4 in this order (R16, R44). -/
structure RawFrame where
  /-- `frame[0]` -/
  humidityHigh : Byte
  /-- `frame[1]` -/
  humidityLow : Byte
  /-- `frame[2]` -/
  tempHigh : Byte
  /-- `frame[3]` -/
  tempLow : Byte
  /-- `frame[4]` -/
  checksum : Byte
  deriving DecidableEq, Repr, Inhabited

/-- The input tuple `I_t` of one tick: `rst`, `start`, `variant`, `line_in` (R7, R25). -/
structure Pins where
  /-- Synchronous reset, active at 1. -/
  rst : Bool
  /-- Command strobe, level-sensitive. -/
  start : Bool
  /-- SensorVariant of the command. -/
  variant : Variant
  /-- The level of the line at this tick. -/
  lineIn : Level
  deriving DecidableEq, Repr, Inhabited

end Sys2Proof
end

