-- ==== Sys2Proof/Config.lean ====
section
/-! DEFINITION. What an instance of the block fixes (the parameters of spec/00_scope.md R6) and the one free value of
the model (the inputs of ticks for which no input is scheduled, spec/20_memory.md R52). -/

namespace Sys2Proof

/-- The named parameters of an instance, in ticks (R6). They are constants of the instance and no part of `S_t`
(R27); two are OPEN (`T_HOLD_B`, `T_TIMEOUT`; 92_eei_decisions.md), so a statement over all states is a statement
over all instances. R173's constraints are `Params.wf`. -/
structure Params where
  /-- `T_HOLD_A`: length of the low start pulse, VariantA. -/
  tHoldA : Nat
  /-- `T_HOLD_B`: length of the low start pulse, VariantB. -/
  tHoldB : Nat
  /-- `T_READY`: length of the host's high "ready" pulse. -/
  tReady : Nat
  /-- `T_ACK1`: delay from releasing the line to the first acknowledgment sample. -/
  tAck1 : Nat
  /-- `T_ACK2`: delay from the first to the second acknowledgment sample. -/
  tAck2 : Nat
  /-- `T_BIT`: delay from seeing a bit's High phase to sampling it. -/
  tBit : Nat
  /-- `T_TIMEOUT`: most ticks any one line-level wait may poll. -/
  tTimeout : Nat
  deriving DecidableEq, Repr

/-- R6's value column: "the value this hardware takes". -/
def Params.thisHardware : Params :=
  { tHoldA := 18000, tHoldB := 1200, tReady := 20, tAck1 := 40, tAck2 := 80, tBit := 40, tTimeout := 1000 }

/-- The inputs the environment gives at a tick for which none is scheduled: nothing constrains them, rule by rule
(R52: "A model must take `line_in` as a free input of every step"). No body, so no proof can know a value of it.
DESIGN CHOICE (notes/assumptions/1.md), safe. -/
opaque Config.freePins : Nat → Pins

end Sys2Proof
end

