-- ==== Sys2Proof/WellFormed.lean ====
section
/-! DEFINITION. What is well formed: an instruction (none has an operand that could be out of range), and an
instance's parameters (spec/70_reset_and_hazards.md R173). -/

namespace Sys2Proof

/-- Every operation is well formed: the phase operations take no operand fields (R62) and all four values of the
command word are defined (R61, R68). -/
def Instr.wf : Instr → Bool
  | .nop => true
  | .readA => true
  | .readB => true
  | .idle => true
  | .hsLow => true
  | .hsHigh => true
  | .hsWait1 => true
  | .hsWait2 => true
  | .hsRelease => true
  | .bitWaitHigh => true
  | .bitDelay => true
  | .bitWaitLow => true
  | .validate => true

/-- A duration that a 16-bit `cnt` can count: "at least 1 and at most 65535" (R173). -/
def fitsCounter (t : Nat) : Bool := decide (1 ≤ t ∧ t ≤ 65535)

/-- Every `T_*` parameter is at least 1: all that R173 asks of a model whose `cnt` is a natural number. -/
def Params.positive (p : Params) : Bool :=
  decide (1 ≤ p.tHoldA ∧ 1 ≤ p.tHoldB ∧ 1 ≤ p.tReady ∧ 1 ≤ p.tAck1 ∧ 1 ≤ p.tAck2 ∧ 1 ≤ p.tBit ∧ 1 ≤ p.tTimeout)

/-- Every `T_*` parameter fits sixteen bits, first constraint of R173. -/
def Params.fitCounter (p : Params) : Bool :=
  fitsCounter p.tHoldA && fitsCounter p.tHoldB && fitsCounter p.tReady && fitsCounter p.tAck1 &&
    fitsCounter p.tAck2 && fitsCounter p.tBit && fitsCounter p.tTimeout

/-- The parameters the document fixes have its values (R173, and the table of 92_eei_decisions.md). -/
def Params.documented (p : Params) : Bool :=
  decide (p.tHoldA = 18000 ∧ p.tReady = 20 ∧ p.tAck1 = 40 ∧ p.tAck2 = 80 ∧ p.tBit = 40)

/-- The hard floor of the VariantB hold, `1000 <= T_HOLD_B` (R173). -/
def Params.holdBFloor (p : Params) : Bool := decide (1000 ≤ p.tHoldB)

/-- The timeout is longer than the longest level the sensor legitimately holds: `T_TIMEOUT > 80` (R173). -/
def Params.timeoutFloor (p : Params) : Bool := decide (80 < p.tTimeout)

/-- An instance whose parameters satisfy R173. -/
def Params.wf (p : Params) : Bool :=
  p.fitCounter && p.documented && p.holdBFloor && p.timeoutFloor

/-- The stricter range of R173 for VariantB: "to be within the document's practical range". -/
def Params.practicalHoldB (p : Params) : Bool := decide (1200 ≤ p.tHoldB ∧ p.tHoldB ≤ 1500)

end Sys2Proof
end

