-- ==== Sys2Proof/Decode.lean ====
section
/-! DEFINITION. The encodings of spec/30_encoding.md: decoder and encoder of the two instruction formats CMD and PH,
and the codes of the formats ST, ENUM1 and FRAME. The decoder is total and rejects by name. -/

namespace Sys2Proof

/-! ### Format ENUM1 (R64) -/

/-- Low = 0, High = 1. -/
def Level.bit : Level → BitVec 1
  | .low => 0
  | .high => 1

/-- Input = 0, Output = 1. -/
def PinMode.bit : PinMode → BitVec 1
  | .input => 0
  | .output => 1

/-- VariantA = 0, VariantB = 1. -/
def Variant.bit : Variant → BitVec 1
  | .variantA => 0
  | .variantB => 1

/-- FAILURE = 0, SUCCESS = 1. -/
def Response.bit : Response → BitVec 1
  | .failure => 0
  | .success => 1

/-- The level of a one-bit code. -/
def Level.ofBit (b : BitVec 1) : Level := if b = 1 then .high else .low

/-- The mode of a one-bit code. -/
def PinMode.ofBit (b : BitVec 1) : PinMode := if b = 1 then .output else .input

/-- The variant of a one-bit code. -/
def Variant.ofBit (b : BitVec 1) : Variant := if b = 1 then .variantB else .variantA

/-- The response of a one-bit code. -/
def Response.ofBit (b : BitVec 1) : Response := if b = 1 then .success else .failure

/-! ### Format ST (R63) -/

/-- The status codes. -/
def Status.code : Status → BitVec 3
  | .none => 0
  | .ok => 1
  | .noResponse => 2
  | .timeout => 3
  | .checksumMismatch => 4

/-- The status of a code; 5 to 7 are reserved and have none (R63, R68). -/
def Status.ofCode (c : BitVec 3) : Option Status :=
  match c.toNat with
  | 0 => some .none
  | 1 => some .ok
  | 2 => some .noResponse
  | 3 => some .timeout
  | 4 => some .checksumMismatch
  | _ => Option.none

/-- The status that `complete(code)` writes for each of its four codes (R85). -/
def ResultKind.status : ResultKind → Status
  | .ok => .ok
  | .noResponse => .noResponse
  | .timeout => .timeout
  | .checksumMismatch => .checksumMismatch

/-! ### Format PH (R62) -/

/-- The phase codes. -/
def Phase.code : Phase → BitVec 4
  | .idle => 0b0000
  | .hsLow => 0b0001
  | .hsHigh => 0b0010
  | .hsWait1 => 0b0011
  | .hsWait2 => 0b0100
  | .hsRelease => 0b0101
  | .bitWaitHigh => 0b0110
  | .bitDelay => 0b0111
  | .bitWaitLow => 0b1000
  | .validate => 0b1001

/-- The phase of a code; 10 to 15 are reserved and have none (R62, R68). -/
def decodePhase (c : BitVec 4) : Option Phase :=
  match c.toNat with
  | 0 => some .idle
  | 1 => some .hsLow
  | 2 => some .hsHigh
  | 3 => some .hsWait1
  | 4 => some .hsWait2
  | 5 => some .hsRelease
  | 6 => some .bitWaitHigh
  | 7 => some .bitDelay
  | 8 => some .bitWaitLow
  | 9 => some .validate
  | _ => none

/-- The operation a phase names: "the block performs the phase operation named by `S_t.phase`" (R11). -/
def Phase.instr : Phase → Instr
  | .idle => .idle
  | .hsLow => .hsLow
  | .hsHigh => .hsHigh
  | .hsWait1 => .hsWait1
  | .hsWait2 => .hsWait2
  | .hsRelease => .hsRelease
  | .bitWaitHigh => .bitWaitHigh
  | .bitDelay => .bitDelay
  | .bitWaitLow => .bitWaitLow
  | .validate => .validate

/-! ### Format CMD (R61) -/

/-- The command word `s v` of the inputs of a tick: bit 1 = `start`, bit 0 = `variant` (R61). -/
def commandWord (p : Pins) : BitVec 2 := BitVec.ofBool p.start ++ p.variant.bit

/-- The meaning of a command word, from its bits: bit 1 clear is NOP whatever bit 0 is (R61). -/
def decodeCommand (w : BitVec 2) : Command :=
  if w.getLsbD 1 then (if w.getLsbD 0 then .readB else .readA) else .nop

/-- The operation a command names. -/
def Command.instr : Command → Instr
  | .nop => .nop
  | .readA => .readA
  | .readB => .readB

/-! ### The decoder -/

/-- Why a word is no instruction. -/
inductive DecodeError where
  /-- A phase code 10 to 15, reserved (R68). -/
  | reservedPhaseCode (code : BitVec 4)
  /-- A bit is set above the format's width (every format has a fixed length, R60). -/
  | wordTooWide (w : Nat)
  deriving DecidableEq, Repr

/-- The width of an instruction format in bits (R60). -/
def Format.width : Format → Nat
  | .cmd => 2
  | .ph => 4

/-- The operation a word of a format stands for, or the name of what is wrong with it. Total. -/
def decode (f : Format) (w : Nat) : Except DecodeError Instr :=
  if w < 2 ^ f.width then
    match f with
    | .cmd => .ok (decodeCommand (BitVec.ofNat 2 w)).instr
    | .ph =>
      match decodePhase (BitVec.ofNat 4 w) with
      | some p => .ok p.instr
      | none => .error (.reservedPhaseCode (BitVec.ofNat 4 w))
  else .error (.wordTooWide w)

/-- Which format a word of `nbits` bits is read as. Two bits are a command, four a phase code (R60). The two
formats' words overlap, so a word in a wider container (a whole byte) does not say which it is: it is read as a
phase code, the format of the operation that runs at every tick. DESIGN CHOICE (notes/assumptions/4.md), unsafe. -/
def formatOfWidth (nbits : Nat) : Format := if nbits ≤ 2 then .cmd else .ph

/-- What the decoder reads from a word of `nbits` bits; `none` where it refuses. -/
def decodeTableWord (nbits w : Nat) : Option Instr :=
  match decode (formatOfWidth nbits) w with
  | .ok i => some i
  | .error _ => none

/-! ### The encoder -/

/-- The format an operation is encoded in. -/
def Instr.format : Instr → Format
  | .nop => .cmd
  | .readA => .cmd
  | .readB => .cmd
  | .idle => .ph
  | .hsLow => .ph
  | .hsHigh => .ph
  | .hsWait1 => .ph
  | .hsWait2 => .ph
  | .hsRelease => .ph
  | .bitWaitHigh => .ph
  | .bitDelay => .ph
  | .bitWaitLow => .ph
  | .validate => .ph

/-- The word of an operation in its format (R61, R62). `NOP` has the two words 00 and 01, of which this is 00. -/
def encode : Instr → Nat
  | .nop => 0b00
  | .readA => 0b10
  | .readB => 0b11
  | .idle => 0b0000
  | .hsLow => 0b0001
  | .hsHigh => 0b0010
  | .hsWait1 => 0b0011
  | .hsWait2 => 0b0100
  | .hsRelease => 0b0101
  | .bitWaitHigh => 0b0110
  | .bitDelay => 0b0111
  | .bitWaitLow => 0b1000
  | .validate => 0b1001

/-! ### Format FRAME (R65) -/

/-- A frame as forty bits, bit 39 the first received (R65). -/
def RawFrame.toWord (f : RawFrame) : BitVec 40 :=
  f.humidityHigh ++ f.humidityLow ++ f.tempHigh ++ f.tempLow ++ f.checksum

/-- The five fields of forty bits (R65). -/
def RawFrame.ofWord (w : BitVec 40) : RawFrame :=
  { humidityHigh := w.extractLsb' 32 8
    humidityLow := w.extractLsb' 24 8
    tempHigh := w.extractLsb' 16 8
    tempLow := w.extractLsb' 8 8
    checksum := w.extractLsb' 0 8 }

end Sys2Proof
end

