-- ==== Sys2Proof/Machine/State.lean ====
section
/-! DEFINITION. The state of the machine: the thirteen elements of spec/10_state.md R10, under the spec's own names,
and beside them what R27 keeps out of `S_t` but a step needs: the instance's parameters and the environment's
inputs. Fault and Refusal, and the state after reset (R30). -/

namespace Sys2Proof.Machine

/-- The state. The first thirteen fields are exactly the elements of R10; the last four are the model's own
(notes/assumptions/1.md and 2.md). -/
structure State where
  /-- Which phase operation runs at this tick: the program counter (R11). -/
  phase : Phase
  /-- Ticks already spent in the current phase (R12). A natural number, as R12 allows; 16 bits hold it (R173). -/
  cnt : Nat
  /-- Which frame byte is being received (R13). -/
  byteIdx : ByteIdx
  /-- How many bits of the current byte are already complete (R14). -/
  bitCnt : BitCnt
  /-- The bits of the current byte received so far (R15). -/
  sh : Byte
  /-- The RawFrame (R16). -/
  frame : RawFrame
  /-- The variant of the read in progress (R17). -/
  variantQ : Variant
  /-- The handshake's response: 1 = SUCCESS (R18). -/
  respOk : Response
  /-- 1 on the first tick after a read completed (R19). -/
  done : Bool
  /-- The kind of the last completed read (R20). -/
  status : Status
  /-- 1 once a Reading has been stored since reset (R21). -/
  readingValid : Bool
  /-- Humidity in tenths of a percent (R22). -/
  humRaw : Raw
  /-- Temperature in tenths of a degree Celsius (R22). -/
  tempRaw : Raw
  /-- MODEL'S OWN: the parameters of this instance, which no step changes (R6, R27). -/
  params : Params
  /-- MODEL'S OWN: the input tuple `I_t` of this tick (R7, R25). -/
  pins : Pins
  /-- MODEL'S OWN: the input tuples of the ticks that follow, as far as they are scheduled (R52). -/
  schedule : List Pins
  /-- MODEL'S OWN: the number of this tick, which selects the free inputs once the schedule is empty (R7, R52). -/
  tick : Nat
  deriving DecidableEq, Repr

/-- Why the machine stops with a fault. There is no such reason: "There is no `fault` treatment anywhere"
(93_implementation_defined.md), and the three error kinds are ordinary completions (R135). Nobody raises one; safe. -/
inductive Fault where
  deriving DecidableEq, Repr

/-- Why the machine gives a word no meaning. -/
inductive Refusal where
  /-- An instruction whose arm of `exec` has no meaning yet; raised by `exec` alone (by no arm now). Safe. -/
  | notModelled (mnemonic : String)
  /-- The phase register names no operation: a reserved code, 10 to 15, to which the spec gives no meaning (R68).
  Raised by `step`; no state of this model raises it, since `phase` is an enumeration. Safe. -/
  | reservedPhaseCode (code : BitVec 4)
  deriving DecidableEq, Repr

/-- The inputs that stand at the first tick: all lines at 0, so no reset, no command. DESIGN CHOICE
(notes/assumptions/3.md): the environment chooses them (R52). -/
def quietPins : Pins := { rst := false, start := false, variant := .variantA, lineIn := .low }

/-- The machine right after reset: every element at its value of R30. The instance is the one of R6's value column;
nothing is scheduled. -/
def State.reset : State :=
  { phase := .idle
    cnt := 0
    byteIdx := 0
    bitCnt := 0
    sh := 0x00
    frame := { humidityHigh := 0x00, humidityLow := 0x00, tempHigh := 0x00, tempLow := 0x00, checksum := 0x00 }
    variantQ := .variantA
    respOk := .failure
    done := false
    status := .none
    readingValid := false
    humRaw := 0x0000
    tempRaw := 0x0000
    params := Params.thisHardware
    pins := quietPins
    schedule := []
    tick := 0 }

end Sys2Proof.Machine
end

