-- ==== Sys2Proof/Machine/Operands.lean ====
section
/-! DEFINITION. The operands of the phase operations: the line sample (spec/20_memory.md R41), the frame store by
index (R40, R44), the hold time (R90), and the three operands assembled from received bits (spec/30_encoding.md R67):
the byte, the 16-bit raw reading and the checksum operand. -/

namespace Sys2Proof.Machine

/-- `LineSample()`: the level of the line at this tick, with no side effect (R41). -/
def lineSample (s : State) : Level := s.pins.lineIn

/-- `T_HOLD(variant_q)`: the length of the start pulse of the latched variant (R90). -/
def holdTime (p : Params) : Variant → Nat
  | .variantA => p.tHoldA
  | .variantB => p.tHoldB

/-- `frame[i]`, read (R8, R44). -/
def readByte (f : RawFrame) (i : ByteIdx) : Byte :=
  match i with
  | 0 => f.humidityHigh
  | 1 => f.humidityLow
  | 2 => f.tempHigh
  | 3 => f.tempLow
  | 4 => f.checksum

/-- `frame[i] <- b`: one whole byte, the other four kept (R8, R47). -/
def writeByte (f : RawFrame) (i : ByteIdx) (b : Byte) : RawFrame :=
  match i with
  | 0 => { f with humidityHigh := b }
  | 1 => { f with humidityLow := b }
  | 2 => { f with tempHigh := b }
  | 3 => { f with tempLow := b }
  | 4 => { f with checksum := b }

/-- All five bytes 0: the frame a command leaves (R16, R81). -/
def clearedFrame : RawFrame :=
  { humidityHigh := 0x00, humidityLow := 0x00, tempHigh := 0x00, tempLow := 0x00, checksum := 0x00 }

/-- `(sh << 1)[7:0] | b`: the old bit 7 is dropped and the sampled level becomes bit 0 (R106, R67). -/
def shiftIn (sh : Byte) (b : Level) : Byte := (sh <<< 1) ||| b.bit.setWidth 8

/-- The checksum operand: the four data bytes widened to ten bits, added, truncated to eight (R120, R121). -/
def checksumOf (f : RawFrame) : Byte :=
  (f.humidityHigh.setWidth 10 + f.humidityLow.setWidth 10 + f.tempHigh.setWidth 10 +
    f.tempLow.setWidth 10).extractLsb' 0 8

/-- `high : low`, sixteen bits, unsigned (R8, R122). -/
def rawReading (high low : Byte) : Raw := high ++ low

/-- The humidity of a frame in tenths of a percent (R122). -/
def humidityOf (f : RawFrame) : Raw := rawReading f.humidityHigh f.humidityLow

/-- The temperature of a frame in tenths of a degree, unsigned: its top bit is no sign (R122, R125). -/
def temperatureOf (f : RawFrame) : Raw := rawReading f.tempHigh f.tempLow

end Sys2Proof.Machine
end

