-- ==== Sys2Proof/Machine/Flags.lean ====
section
/-! DEFINITION. The flag computations: the response of the handshake from a sample (spec/41_handshake.md R93), the
validity of a frame (spec/43_validate_convert.md R121), and the tests on `cnt` that end a phase
(spec/10_state.md R12). -/

namespace Sys2Proof.Machine

/-- `resp_ok <- (LI = High)`: High is SUCCESS, Low is FAILURE (R93). -/
def responseOf : Level → Response
  | .high => .success
  | .low => .failure

/-- The document's invariant of a valid frame: `checksum == (b0 + b1 + b2 + b3) mod 256` (R65, R121). -/
def frameValid (f : RawFrame) : Bool := checksumOf f == f.checksum

/-- `cnt = n - 1`: this is the last of `n` ticks of the phase. Never true for `n = 0`, a length R173 excludes. -/
def lastTickOf (s : State) (n : Nat) : Bool := s.cnt + 1 == n

/-- `cnt = n`: `n` whole ticks of the phase have gone by, the form of `HS_WAIT1` (R9, R92). -/
def elapsed (s : State) (n : Nat) : Bool := s.cnt == n

end Sys2Proof.Machine
end

