-- ==== Sys2Proof/Machine/Ops.lean ====
section
/-! DEFINITION. The named operations on the state that the meanings share: moving on (`goto`, staying), the
completion of a read, which is this block's form of raising an exception (spec/00_scope.md R9, spec/60_exceptions.md
R141), the acceptance of a command, the reset, the passing of a tick, and the fetch of the operation to perform.
There is no return operation: after a completion the block is ready at once (R142). -/

namespace Sys2Proof.Machine

/-- `goto P`: `phase <- P; cnt <- 0` (R9, R11). -/
def State.goto (s : State) (p : Phase) : State := { s with phase := p, cnt := 0 }

/-- `else cnt <- cnt + 1`, everything else unchanged (R12 and the head of 41_handshake.md). -/
def State.stay (s : State) : State := { s with cnt := s.cnt + 1 }

/-- `complete(code)`: `status <- code; done <- 1; phase <- IDLE; cnt <- 0`, and nothing else (R85, R141). -/
def State.complete (s : State) (k : ResultKind) : State :=
  { s with status := k.status, done := true, phase := .idle, cnt := 0 }

/-- `done <- 0`, the write of every `IDLE` tick (R84). -/
def State.clearDone (s : State) : State := { s with done := false }

/-- The acceptance of a `READ` command: the transient registers are re-initialised, the result registers kept, and
the block goes to `HS_LOW` (R81, R82). -/
def State.acceptRead (s : State) (v : Variant) : State :=
  { s with
    done := false
    variantQ := v
    respOk := .failure
    byteIdx := 0
    bitCnt := 0
    sh := 0x00
    frame := clearedFrame
    phase := .hsLow
    cnt := 0 }

/-- `resp_ok <- r` (R18). -/
def State.setResponse (s : State) (r : Response) : State := { s with respOk := r }

/-- `sh <- (sh << 1)[7:0] | b` (R106). -/
def State.shiftBit (s : State) (b : Level) : State := { s with sh := shiftIn s.sh b }

/-- `frame[byte_idx] <- sh; bit_cnt <- 0`: the eighth bit of a byte is complete (R107). -/
def State.storeByte (s : State) : State :=
  { s with frame := writeByte s.frame s.byteIdx s.sh, bitCnt := 0 }

/-- `hum_raw`, `temp_raw` and `reading_valid` in one write, from the frame (R22, R120). -/
def State.storeReading (s : State) : State :=
  { s with humRaw := humidityOf s.frame, tempRaw := temperatureOf s.frame, readingValid := true }

/-- Reset: every element of `S_t` to its value of R30, whatever it was. The instance and the environment are no part
of `S_t` and stay (R27, R160). -/
def State.resetBlock (s : State) : State :=
  { State.reset with params := s.params, pins := s.pins, schedule := s.schedule, tick := s.tick }

/-- The tick passes: the environment's inputs of the next tick stand at the pins, the scheduled ones first, then free
ones (R7, R52). No element of `S_t` changes. -/
def State.nextTick (s : State) : State :=
  match s.schedule with
  | [] => { s with pins := Config.freePins (s.tick + 1), tick := s.tick + 1 }
  | p :: ps => { s with pins := p, schedule := ps, tick := s.tick + 1 }

/-- The code in the phase register, by which the operation of this tick is found: there is no instruction memory to
fetch from (R11, R51). -/
def fetchCode (s : State) : BitVec 4 := s.phase.code

/-- The operation of this tick: what the decoder reads from the phase register (R11, R51). -/
def fetch (s : State) : Except DecodeError Instr := decode .ph (fetchCode s).toNat

/-- The tick with its outcome: after a phase operation time goes on, and a stop stays a stop (R7). -/
def finishTick (o : Host.Outcome State Fault Refusal) : Host.Outcome State Fault Refusal :=
  match o with
  | .next s => .next s.nextTick
  | .fault f => .fault f
  | .refused r => .refused r

/-- One step of R160: reset on top, else the phase operation that the fetch names, performed by `run`. -/
def tickWith (run : Instr → State → Host.Outcome State Fault Refusal) (s : State) :
    Host.Outcome State Fault Refusal :=
  if s.pins.rst then .next s.resetBlock.nextTick
  else
    match fetch s with
    | .ok i => finishTick (run i s)
    | .error _ => .refused (.reservedPhaseCode (fetchCode s))

/-- The inputs of this tick made those of a command word, with reset off; the line keeps its level (R61). -/
def State.presentCommand (s : State) (w : BitVec 2) : State :=
  { s with
    phase := .idle
    pins := { s.pins with rst := false, start := w.getLsbD 1, variant := Variant.ofBit (w.extractLsb' 0 1) } }

/-- The phase register loaded with a phase, with reset off at this tick (R11, R160). -/
def State.presentPhase (s : State) (p : Phase) : State :=
  { s with phase := p, pins := { s.pins with rst := false } }

/-- The word `w` of `nbits` bits placed where the next step finds its operation: a command word at the command inputs
of an `IDLE` tick, a phase code in the phase register. A word that encodes nothing changes nothing: the phase
register, an enumeration, cannot hold a reserved code (notes/assumptions/4.md). -/
def State.placeWord (s : State) (nbits w : Nat) : State :=
  match formatOfWidth nbits with
  | .cmd => if w < 4 then s.presentCommand (BitVec.ofNat 2 w) else s
  | .ph =>
    if w < 16 then
      match decodePhase (BitVec.ofNat 4 w) with
      | some p => s.presentPhase p
      | none => s
    else s

end Sys2Proof.Machine
end

