-- ==== Sys2Proof/Machine/Command.lean ====
section
/-! DEFINITION. The host commands and the `IDLE` operation (spec/40_command.md R80 to R84). -/

namespace Sys2Proof.Machine

/-- `NOP` (R80): `done <- 0` and nothing else. A command word outside `IDLE` is not decoded at all (R83). -/
def execNop (s : State) : Host.Outcome State Fault Refusal :=
  .next (if s.phase = .idle then s.clearDone else s)

/-- `READ.A` (R81): accepted in `IDLE`; while the block is busy it is ignored and not remembered (R83). -/
def execReadA (s : State) : Host.Outcome State Fault Refusal :=
  .next (if s.phase = .idle then s.acceptRead .variantA else s)

/-- `READ.B` (R82): `READ.A` with VariantB latched; while the block is busy it is ignored (R83). -/
def execReadB (s : State) : Host.Outcome State Fault Refusal :=
  .next (if s.phase = .idle then s.acceptRead .variantB else s)

/-- `IDLE` (R84): `done <- 0` and the command of this tick's inputs. The line is not looked at (R53). -/
def execIdle (s : State) : Host.Outcome State Fault Refusal :=
  match decodeCommand (commandWord s.pins) with
  | .nop => execNop s.clearDone
  | .readA => execReadA s.clearDone
  | .readB => execReadB s.clearDone

end Sys2Proof.Machine
end

