-- ==== Sys2Proof/Machine/FrameDecode.lean ====
section
/-! DEFINITION. The three phase operations of the frame decode: the bit-timing discriminator and the byte and frame
assembler (spec/42_frame_decode.md R105 to R107). -/

namespace Sys2Proof.Machine

/-- `BIT_WAIT_HIGH` (R105): the bounded wait for the level High, tested before the deadline. -/
def execBitWaitHigh (s : State) : Host.Outcome State Fault Refusal :=
  .next
    (match lineSample s with
    | .high => s.goto .bitDelay
    | .low => if lastTickOf s s.params.tTimeout then s.complete .timeout else s.stay)

/-- `BIT_DELAY` (R106): on the last of `T_BIT` ticks the sampled level is the bit, shifted into `sh`. -/
def execBitDelay (s : State) : Host.Outcome State Fault Refusal :=
  .next (if lastTickOf s s.params.tBit then (s.shiftBit (lineSample s)).goto .bitWaitLow else s.stay)

/-- What `BIT_WAIT_LOW` does on the tick it sees Low: count the bit; after the eighth store the byte; after the fifth
byte go to `VALIDATE`, `byte_idx` staying 4 (R107). -/
def State.bitComplete (s : State) : State :=
  if s.bitCnt = 7 then
    if s.byteIdx = 4 then s.storeByte.goto .validate
    else { s.storeByte with byteIdx := s.byteIdx + 1 }.goto .bitWaitHigh
  else { s with bitCnt := s.bitCnt + 1 }.goto .bitWaitHigh

/-- `BIT_WAIT_LOW` (R107): the bounded wait for Low, tested before the deadline. -/
def execBitWaitLow (s : State) : Host.Outcome State Fault Refusal :=
  .next
    (match lineSample s with
    | .low => s.bitComplete
    | .high => if lastTickOf s s.params.tTimeout then s.complete .timeout else s.stay)

end Sys2Proof.Machine
end

