-- ==== Sys2Proof/Machine/Handshake.lean ====
section
/-! DEFINITION. The five phase operations of the handshake (spec/41_handshake.md R90 to R94). The line drive of
`HS_LOW` and `HS_HIGH` is a function of the phase: `Machine/Outputs.lean`. -/

namespace Sys2Proof.Machine

/-- `HS_LOW` (R90): the start pulse, `T_HOLD(variant_q)` ticks. -/
def execHsLow (s : State) : Host.Outcome State Fault Refusal :=
  .next (if lastTickOf s (holdTime s.params s.variantQ) then s.goto .hsHigh else s.stay)

/-- `HS_HIGH` (R91): the host's "ready" pulse, `T_READY` ticks. -/
def execHsHigh (s : State) : Host.Outcome State Fault Refusal :=
  .next (if lastTickOf s s.params.tReady then s.goto .hsWait1 else s.stay)

/-- `HS_WAIT1` (R92): after `T_ACK1` whole ticks the first acknowledgment sample; High is FAILURE. -/
def execHsWait1 (s : State) : Host.Outcome State Fault Refusal :=
  .next
    (if elapsed s s.params.tAck1 then
      match lineSample s with
      | .high => (s.setResponse .failure).goto .hsRelease
      | .low => s.goto .hsWait2
    else s.stay)

/-- `HS_WAIT2` (R93): on the last of `T_ACK2` ticks the second acknowledgment sample; High is SUCCESS. -/
def execHsWait2 (s : State) : Host.Outcome State Fault Refusal :=
  .next
    (if lastTickOf s s.params.tAck2 then (s.setResponse (responseOf (lineSample s))).goto .hsRelease
    else s.stay)

/-- `HS_RELEASE` (R94): the bounded wait for Low. Low is tested before the deadline, and `NO_RESPONSE` wins over
`TIMEOUT`. -/
def execHsRelease (s : State) : Host.Outcome State Fault Refusal :=
  .next
    (match lineSample s with
    | .low =>
      match s.respOk with
      | .success => s.goto .bitWaitHigh
      | .failure => s.complete .noResponse
    | .high =>
      if lastTickOf s s.params.tTimeout then
        match s.respOk with
        | .success => s.complete .timeout
        | .failure => s.complete .noResponse
      else s.stay)

end Sys2Proof.Machine
end

