-- ==== Sys2Proof/Machine/Validate.lean ====
section
/-! DEFINITION. The checksum validator and the temperature and humidity decoder
(spec/43_validate_convert.md R120 to R126). -/

namespace Sys2Proof.Machine

/-- `VALIDATE` (R120): one tick. On a match the Reading is stored and the read completes with `OK`; on a mismatch
nothing is copied and it completes with `CHECKSUM_MISMATCH`. No range check and no sign (R125, R126). -/
def execValidate (s : State) : Host.Outcome State Fault Refusal :=
  .next (if frameValid s.frame then s.storeReading.complete .ok else s.complete .checksumMismatch)

end Sys2Proof.Machine
end

