-- ==== Sys2Proof/Machine/Dispatch.lean ====
section
/-! DEFINITION. One arm per operation of spec/opcode_table.json, each one call of its meaning. -/

namespace Sys2Proof.Machine

def exec (i : Instr) (s : State) : Host.Outcome State Fault Refusal :=
  match i with
  | .nop => Sys2Proof.Machine.execNop s
  | .readA => Sys2Proof.Machine.execReadA s
  | .readB => Sys2Proof.Machine.execReadB s
  | .idle => Sys2Proof.Machine.execIdle s
  | .hsLow => Sys2Proof.Machine.execHsLow s
  | .hsHigh => Sys2Proof.Machine.execHsHigh s
  | .hsWait1 => Sys2Proof.Machine.execHsWait1 s
  | .hsWait2 => Sys2Proof.Machine.execHsWait2 s
  | .hsRelease => Sys2Proof.Machine.execHsRelease s
  | .bitWaitHigh => Sys2Proof.Machine.execBitWaitHigh s
  | .bitDelay => Sys2Proof.Machine.execBitDelay s
  | .bitWaitLow => Sys2Proof.Machine.execBitWaitLow s
  | .validate => Sys2Proof.Machine.execValidate s

end Sys2Proof.Machine
end

