-- ==== Sys2Proof/Machine/Outputs.lean ====
section
/-! DEFINITION. The output ports, all functions of the state alone (spec/00_scope.md R7; spec/10_state.md R23, R24,
R26): the line drive, the flags, and the Reading with its decimal form. -/

namespace Sys2Proof.Machine

/-- `line_oe`: Output in `HS_LOW` and `HS_HIGH`, Input in every other phase (R23, R42). -/
def lineOe (s : State) : PinMode :=
  match s.phase with
  | .hsLow => .output
  | .hsHigh => .output
  | .idle => .input
  | .hsWait1 => .input
  | .hsWait2 => .input
  | .hsRelease => .input
  | .bitWaitHigh => .input
  | .bitDelay => .input
  | .bitWaitLow => .input
  | .validate => .input

/-- `line_out`: Low in `HS_LOW`, High in every other phase (R23). -/
def lineOut (s : State) : Level :=
  match s.phase with
  | .hsLow => .low
  | .hsHigh => .high
  | .idle => .high
  | .hsWait1 => .high
  | .hsWait2 => .high
  | .hsRelease => .high
  | .bitWaitHigh => .high
  | .bitDelay => .high
  | .bitWaitLow => .high
  | .validate => .high

/-- `busy`: 0 in `IDLE`, 1 in every other phase (R23). -/
def busy (s : State) : Bool := s.phase != .idle

/-- `hum_int` and `temp_int`: `raw div 10`, thirteen bits (R24). -/
def intPart (raw : Raw) : BitVec 13 := BitVec.ofNat 13 (raw.toNat / 10)

/-- `hum_frac` and `temp_frac`: `raw mod 10`, four bits (R24). -/
def fracPart (raw : Raw) : BitVec 4 := BitVec.ofNat 4 (raw.toNat % 10)

/-- The output tuple `O_t` (R26). -/
structure Outputs where
  lineOe : PinMode
  lineOut : Level
  busy : Bool
  done : Bool
  status : Status
  readingValid : Bool
  humRaw : Raw
  tempRaw : Raw
  humInt : BitVec 13
  humFrac : BitVec 4
  tempInt : BitVec 13
  tempFrac : BitVec 4
  deriving DecidableEq, Repr

/-- `O_t = out(S_t)`: the block is a Moore machine (R7, R26). -/
def outputs (s : State) : Outputs :=
  { lineOe := lineOe s
    lineOut := lineOut s
    busy := busy s
    done := s.done
    status := s.status
    readingValid := s.readingValid
    humRaw := s.humRaw
    tempRaw := s.tempRaw
    humInt := intPart s.humRaw
    humFrac := fracPart s.humRaw
    tempInt := intPart s.tempRaw
    tempFrac := fracPart s.tempRaw }

end Sys2Proof.Machine
end

