-- ==== Sys2Proof/Machine/Step.lean ====
section
/-! DEFINITION. One step is one tick (spec/00_scope.md R5, R7): reset on top (spec/70_reset_and_hazards.md R160), else
the phase operation named by the phase register, and then the environment's next inputs. -/

namespace Sys2Proof.Machine

/-- `S_(t+1) = step(S_t, I_t)`, with `I_t` the field `pins` (R7, R160). -/
def step (s : State) : Host.Outcome State Fault Refusal := tickWith exec s

/-- The state with a word placed where the next step finds its operation. -/
def State.withFetchWord (s : State) (nbits w : Nat) : State := s.placeWord nbits w

end Sys2Proof.Machine
end

