-- ==== Sys2Proof/Machine/Waveform.lean ====
section
/-! DEFINITION. Waveforms and symbols on the wire (spec/30_encoding.md R66, R71), and what it means that the
environment plays one to the machine. They describe inputs, they define no behaviour of the block (R71). -/

namespace Sys2Proof.Machine

/-- A segment `H<n>` or `L<n>`: a level for `n` ticks (R71). -/
abbrev Segment := Level × Nat

/-- The levels of a list of segments, one a tick, in time order (R71). -/
def levelsOf (w : List Segment) : List Level := w.flatMap fun g => List.replicate g.2 g.1

/-- The symbol of one bit: `L50 H27` for a 0 and `L50 H70` for a 1 (R71). -/
def symbolOf (b : Bool) : List Segment := [(.low, 50), (.high, if b then 70 else 27)]

/-- The forty bits of a frame in order of arrival, most significant bit of `frame[0]` first (R43, R44, R65). -/
def frameBits (f : RawFrame) : List Bool := (List.range 40).map fun n => f.toWord.getLsbD (39 - n)

/-- `SENSOR(d, f)` up to and with its last `L50` (R71): `H<d> L80 H80`, the forty symbols, `L50`. -/
def sensorWave (d : Nat) (f : RawFrame) : List Segment :=
  [(.high, d), (.low, 80), (.high, 80)] ++ (frameBits f).flatMap symbolOf ++ [(.low, 50)]

/-- The bit that a High phase of `w` ticks decodes to, `none` where the read completes with `TIMEOUT`: the table of
R66, for `w >= 1`. -/
def decodedBit (p : Params) (w : Nat) : Option Bool :=
  if w ≤ p.tBit then some false else if w ≤ p.tBit + p.tTimeout then some true else none

/-- The input tuples known to the state: this tick's and the scheduled ones. -/
def State.upcoming (s : State) : List Pins := s.pins :: s.schedule

/-- From this tick on the line shows the levels `ls`, one a tick, and no reset comes in those ticks. Nothing is said
of `start` and `variant`. -/
def State.hears (s : State) (ls : List Level) : Prop :=
  ls.map (fun l => (false, l)) <+: s.upcoming.map (fun p => (p.rst, p.lineIn))

/-- No reset comes in the `n` ticks from this one on, whatever else the inputs are. -/
def State.noReset (s : State) (n : Nat) : Prop :=
  List.replicate n false <+: s.upcoming.map Pins.rst

/-- A tick on which a `READ` command for the variant is accepted: `phase = IDLE`, `start = 1`, no reset (R81, R82). -/
def State.acceptsRead (s : State) (v : Variant) : Prop :=
  s.phase = .idle ∧ s.pins.rst = false ∧ s.pins.start = true ∧ s.pins.variant = v

end Sys2Proof.Machine
end

