-- ==== Sys2Proof/Safety.lean ====
section
/-! DEFINITION. The terms in which claims about runs are stated: the block without its environment, runs, reachable
states, the invariants of spec/10_state.md R32, and the agreement of two reads (spec/40_command.md R88). -/

namespace Sys2Proof.Machine

/-- The thirteen elements of `S_t` and the instance, without the environment: two states of one instance hold the
same `S_t` exactly when their blocks are equal (R10, R27). -/
def State.block (s : State) : State := { s with pins := quietPins, schedule := [], tick := 0 }

/-- `n` ticks lead from `s` to `t`, with no stop on the way. -/
def RunsTo (n : Nat) (s t : State) : Prop := Host.Core.run Sys2Proof.core n s = .next t

/-- A state whose thirteen elements have their reset values, of any instance, under any inputs (R30, R160). -/
def State.isReset (s : State) : Prop := s.block = { State.reset with params := s.params }

/-- The states that `step` reaches from the reset state, for every instance and every choice of inputs. -/
inductive Reachable : State → Prop where
  | start (s : State) (h : s.isReset) : Reachable s
  | tick (s t : State) (h : Reachable s) (hs : step s = .next t) : Reachable t

/-- How far `cnt` may have counted in each phase (R32). -/
def State.cntInPhase (s : State) : Prop :=
  match s.phase with
  | .idle => s.cnt = 0
  | .hsLow => s.cnt < holdTime s.params s.variantQ
  | .hsHigh => s.cnt < s.params.tReady
  | .hsWait1 => s.cnt ≤ s.params.tAck1
  | .hsWait2 => s.cnt < s.params.tAck2
  | .hsRelease => s.cnt < s.params.tTimeout
  | .bitWaitHigh => s.cnt < s.params.tTimeout
  | .bitDelay => s.cnt < s.params.tBit
  | .bitWaitLow => s.cnt < s.params.tTimeout
  | .validate => s.cnt = 0

/-- The three phases of the frame decode. -/
def State.decoding (s : State) : Prop :=
  s.phase = .bitWaitHigh ∨ s.phase = .bitDelay ∨ s.phase = .bitWaitLow

/-- The five phases of the handshake. -/
def State.handshaking (s : State) : Prop :=
  s.phase = .hsLow ∨ s.phase = .hsHigh ∨ s.phase = .hsWait1 ∨ s.phase = .hsWait2 ∨ s.phase = .hsRelease

/-- The invariants of R32, with R173's constraint on the parameters of a model whose `cnt` is a natural number.
`byte_idx <= 4` and `status <= 4` hold by the types. -/
structure State.Inv (s : State) : Prop where
  /-- Every `T_*` is at least 1 (R173). -/
  params_positive : s.params.positive = true
  /-- The bound of `cnt` in each phase; in `IDLE` and `VALIDATE` it is 0. -/
  cnt_in_phase : s.cntInPhase
  /-- `done = 1` implies `phase = IDLE` and `status != NONE`. -/
  done_idle : s.done = true → s.phase = .idle ∧ s.status ≠ .none
  /-- `status = NONE` implies `reading_valid = 0`. -/
  none_not_valid : s.status = .none → s.readingValid = false
  /-- `reading_valid = 0` implies `hum_raw = 0` and `temp_raw = 0`. -/
  not_valid_zero : s.readingValid = false → s.humRaw = 0 ∧ s.tempRaw = 0
  /-- In `VALIDATE` all forty bits are in. -/
  validate_position : s.phase = .validate → s.byteIdx = 4 ∧ s.bitCnt = 0
  /-- The frame is decoded only after a SUCCESS. -/
  decoding_success : s.decoding → s.respOk = .success

/-- The number of bits of the frame already complete: the iteration of R111. -/
def State.bitNumber (s : State) : Nat := 8 * s.byteIdx.val + s.bitCnt.val

/-- R171's bound on the number of busy ticks of a read, for a start pulse of `h` ticks. -/
def busyBound (p : Params) (h : Nat) : Nat :=
  h + p.tReady + (p.tAck1 + 1) + p.tAck2 + p.tTimeout + 40 * (p.tTimeout + p.tBit + p.tTimeout) + 1

/-- Two states stand at the same place of a read: they agree on every element that a later phase of the read looks
at, and on the instance (R29, R88). -/
def SameRead (s t : State) : Prop :=
  s.phase = t.phase ∧ s.cnt = t.cnt ∧ s.byteIdx = t.byteIdx ∧ s.bitCnt = t.bitCnt ∧ s.sh = t.sh ∧
    s.frame = t.frame ∧ s.variantQ = t.variantQ ∧ s.respOk = t.respOk ∧ s.params = t.params

end Sys2Proof.Machine
end

