-- ==== Sys2Proof/Certificates/Slice0/Obligations.lean ====
section
/-! DEFINITION. The statements for the provers, in the order of OBLIGATIONS.json. Every statement quantifies over all
states, hence over all instances of the block (`params`) and all inputs (`pins`, `schedule`). Where a statement rests
on the model's own form of the environment, its docstring names the entry of notes/assumptions. -/

open Sys2Proof Sys2Proof.Machine

/-! ### What each operation does: the next state in full, so that everything not named is unchanged -/

/-- R80: in `IDLE` a `NOP` writes `done` to 0 and nothing else; in particular `phase` stays `IDLE`. -/
def Obligations.NopOnlyClearsDone : Prop :=
  ∀ s : State, s.phase = .idle → exec .nop s = .next { s with done := false }

/-- R80: the block may stay in `IDLE` for any number of ticks. After `n >= 1` ticks with `start = 0` and no reset,
whatever `variant` and `line_in` are, the thirteen elements are those it had, with `done = 0`; both command words
with `start = 0` are `NOP`. -/
def Obligations.NopTicksKeepTheBlock : Prop :=
  (decode .cmd 0b00 = .ok .nop ∧ decode .cmd 0b01 = .ok .nop) ∧
  ∀ (s : State) (n : Nat), s.phase = .idle → 1 ≤ n → n ≤ s.upcoming.length →
    (∀ p ∈ s.upcoming.take n, p.rst = false ∧ p.start = false) →
    exec .nop s = .next { s with done := false } ∧
    ∃ t, RunsTo n s t ∧ t.block = ({ s with done := false } : State).block

/-- R81: `READ.A` in `IDLE`, as an operation and as the step of a tick that presents it: the transient registers are
re-initialised, VariantA is latched, the block goes to `HS_LOW`; `status`, `reading_valid` and the Reading stay.
Nothing is asked of `done`: a command on the very tick `done = 1` is accepted like any other. -/
def Obligations.ReadAStartsARead : Prop :=
  ∀ s : State, s.phase = .idle →
    exec .readA s = .next
      { s with
        done := false, variantQ := .variantA, respOk := .failure, byteIdx := 0, bitCnt := 0, sh := 0x00
        frame := { humidityHigh := 0, humidityLow := 0, tempHigh := 0, tempLow := 0, checksum := 0 }
        phase := .hsLow, cnt := 0 } ∧
    (s.acceptsRead .variantA → ∀ t, exec .readA s = .next t → step s = .next t.nextTick)

/-- R82: `READ.B` is `READ.A` with VariantB latched in place of VariantA. -/
def Obligations.ReadBStartsARead : Prop :=
  ∀ s : State, s.phase = .idle →
    exec .readB s = .next
      { s with
        done := false, variantQ := .variantB, respOk := .failure, byteIdx := 0, bitCnt := 0, sh := 0x00
        frame := { humidityHigh := 0, humidityLow := 0, tempHigh := 0, tempLow := 0, checksum := 0 }
        phase := .hsLow, cnt := 0 } ∧
    (s.acceptsRead .variantB → ∀ t, exec .readB s = .next t → step s = .next t.nextTick)

/-- R84: `IDLE` clears `done` and performs the command of this tick's inputs: `(0, _)` is `NOP`, `(1, 0)` is `READ.A`,
`(1, 1)` is `READ.B`. The line is not driven. -/
def Obligations.IdleDecodesTheCommandWord : Prop :=
  ∀ s : State, s.phase = .idle →
    lineOe s = .input ∧
    (s.pins.start = false → exec .idle s = .next { s with done := false }) ∧
    (s.pins.start = true → exec .idle s = .next
      { s with
        done := false, variantQ := s.pins.variant, respOk := .failure, byteIdx := 0, bitCnt := 0, sh := 0x00
        frame := { humidityHigh := 0, humidityLow := 0, tempHigh := 0, tempLow := 0, checksum := 0 }
        phase := .hsLow, cnt := 0 }) ∧
    (s.pins.start = true → s.pins.variant = .variantA → exec .idle s = exec .readA s) ∧
    (s.pins.start = true → s.pins.variant = .variantB → exec .idle s = exec .readB s)

/-- While the block is busy the three command operations, should one be performed, leave the state as it is: that is the
model's own form (notes/assumptions/8.md, DESIGN CHOICE), not a rule of the spec. The last clause is R83's: the step
does not depend on `start` and `variant`, so a command is neither obeyed nor remembered. -/
def Obligations.BusyBlockIgnoresCommands : Prop :=
  ∀ s : State, s.phase ≠ .idle →
    exec .nop s = .next s ∧ exec .readA s = .next s ∧ exec .readB s = .next s ∧
    ∀ (b : Bool) (v : Variant), step { s with pins := { s.pins with start := b, variant := v } } = step s

/-- R90, R91: one tick of the two timed drives: on the last tick of its length the phase moves on, on every other
`cnt` counts; nothing else changes. `cnt = T - 1` is written `cnt + 1 = T`. -/
def Obligations.TimedDrivesAdvance : Prop :=
  ∀ s : State,
    exec .hsLow s = .next
      (if s.cnt + 1 = (if s.variantQ = .variantA then s.params.tHoldA else s.params.tHoldB)
        then { s with phase := .hsHigh, cnt := 0 } else { s with cnt := s.cnt + 1 }) ∧
    exec .hsHigh s = .next
      (if s.cnt + 1 = s.params.tReady then { s with phase := .hsWait1, cnt := 0 } else { s with cnt := s.cnt + 1 })

/-- R92, R93: one tick of the two acknowledgment samples. -/
def Obligations.AcknowledgmentSamplesDecide : Prop :=
  ∀ s : State,
    exec .hsWait1 s = .next
      (if s.cnt = s.params.tAck1 then
        (if s.pins.lineIn = .high then { s with respOk := .failure, phase := .hsRelease, cnt := 0 }
         else { s with phase := .hsWait2, cnt := 0 })
       else { s with cnt := s.cnt + 1 }) ∧
    exec .hsWait2 s = .next
      (if s.cnt + 1 = s.params.tAck2 then
        { s with respOk := if s.pins.lineIn = .high then .success else .failure, phase := .hsRelease, cnt := 0 }
       else { s with cnt := s.cnt + 1 })

/-- R94: one tick of `HS_RELEASE`: Low is tested before the deadline, and `NO_RESPONSE` wins over `TIMEOUT`. -/
def Obligations.ReleaseTickOutcomes : Prop :=
  ∀ s : State,
    (s.pins.lineIn = .low → s.respOk = .success →
      exec .hsRelease s = .next { s with phase := .bitWaitHigh, cnt := 0 }) ∧
    (s.pins.lineIn = .low → s.respOk = .failure →
      exec .hsRelease s = .next { s with status := .noResponse, done := true, phase := .idle, cnt := 0 }) ∧
    (s.pins.lineIn = .high → s.cnt + 1 = s.params.tTimeout → s.respOk = .success →
      exec .hsRelease s = .next { s with status := .timeout, done := true, phase := .idle, cnt := 0 }) ∧
    (s.pins.lineIn = .high → s.cnt + 1 = s.params.tTimeout → s.respOk = .failure →
      exec .hsRelease s = .next { s with status := .noResponse, done := true, phase := .idle, cnt := 0 }) ∧
    (s.pins.lineIn = .high → s.cnt + 1 ≠ s.params.tTimeout →
      exec .hsRelease s = .next { s with cnt := s.cnt + 1 })

/-- R105: one tick of `BIT_WAIT_HIGH`: the level High is tested before the deadline. -/
def Obligations.BitWaitHighTickOutcomes : Prop :=
  ∀ s : State,
    (s.pins.lineIn = .high → exec .bitWaitHigh s = .next { s with phase := .bitDelay, cnt := 0 }) ∧
    (s.pins.lineIn = .low → s.cnt + 1 = s.params.tTimeout →
      exec .bitWaitHigh s = .next { s with status := .timeout, done := true, phase := .idle, cnt := 0 }) ∧
    (s.pins.lineIn = .low → s.cnt + 1 ≠ s.params.tTimeout →
      exec .bitWaitHigh s = .next { s with cnt := s.cnt + 1 })

/-- R106: one tick of `BIT_DELAY`: on the last the sampled level enters `sh` at the bottom and the old bit 7 is lost. -/
def Obligations.BitDelayTickShifts : Prop :=
  ∀ s : State,
    exec .bitDelay s = .next
      (if s.cnt + 1 = s.params.tBit then
        { s with
          sh := s.sh.extractLsb' 0 7 ++ (if s.pins.lineIn = .high then 1#1 else 0#1)
          phase := .bitWaitLow, cnt := 0 }
       else { s with cnt := s.cnt + 1 })

/-- R107: one tick of `BIT_WAIT_LOW`, with the frame store read byte by byte. Low is tested before the deadline; the
byte is stored with its eighth bit's trailing Low, in `frame[byte_idx]` and nowhere else. -/
def Obligations.BitWaitLowTickOutcomes : Prop :=
  ∀ s : State,
    (s.pins.lineIn = .low → s.bitCnt ≠ 7 →
      exec .bitWaitLow s = .next { s with bitCnt := s.bitCnt + 1, phase := .bitWaitHigh, cnt := 0 }) ∧
    (s.pins.lineIn = .low → s.bitCnt = 7 → ∃ f : RawFrame,
      readByte f s.byteIdx = s.sh ∧ (∀ i, i ≠ s.byteIdx → readByte f i = readByte s.frame i) ∧
      exec .bitWaitLow s = .next
        (if s.byteIdx = 4 then { s with frame := f, bitCnt := 0, phase := .validate, cnt := 0 }
         else { s with frame := f, bitCnt := 0, byteIdx := s.byteIdx + 1, phase := .bitWaitHigh, cnt := 0 })) ∧
    (s.pins.lineIn = .high → s.cnt + 1 = s.params.tTimeout →
      exec .bitWaitLow s = .next { s with status := .timeout, done := true, phase := .idle, cnt := 0 }) ∧
    (s.pins.lineIn = .high → s.cnt + 1 ≠ s.params.tTimeout →
      exec .bitWaitLow s = .next { s with cnt := s.cnt + 1 })

/-- R120: `VALIDATE`. On a match the Reading, `reading_valid`, `status` and `done` change in this one step, for every
valid frame whatever its values (R126); on a mismatch nothing is copied. The line is in Input mode. -/
def Obligations.ValidateStoresOrDiscards : Prop :=
  ∀ s : State,
    (s.phase = .validate → lineOe s = .input) ∧
    exec .validate s = .next
      (if (s.frame.humidityHigh.toNat + s.frame.humidityLow.toNat + s.frame.tempHigh.toNat + s.frame.tempLow.toNat) % 256
          = s.frame.checksum.toNat
       then { s with
          humRaw := BitVec.ofNat 16 (256 * s.frame.humidityHigh.toNat + s.frame.humidityLow.toNat)
          tempRaw := BitVec.ofNat 16 (256 * s.frame.tempHigh.toNat + s.frame.tempLow.toNat)
          readingValid := true, status := .ok, done := true, phase := .idle, cnt := 0 }
       else { s with status := .checksumMismatch, done := true, phase := .idle, cnt := 0 })

/-! ### How long each phase lasts and what it waits for -/

/-- R90: from its first tick, `HS_LOW` drives the line Low for exactly `T_HOLD(variant_q)` ticks, 18000 or 1200 on this
hardware, whatever the inputs but reset are, and then the block is in `HS_HIGH`. -/
def Obligations.StartPulseLastsTheHoldTime : Prop :=
  (holdTime Params.thisHardware .variantA = 18000 ∧ holdTime Params.thisHardware .variantB = 1200) ∧
  ∀ s : State, s.phase = .hsLow → s.cnt = 0 → 1 ≤ holdTime s.params s.variantQ →
    s.noReset (holdTime s.params s.variantQ) →
    (∀ k < holdTime s.params s.variantQ, ∃ t, RunsTo k s t ∧ t.block = ({ s with cnt := k } : State).block ∧
      lineOe t = .output ∧ lineOut t = .low) ∧
    ∃ t, RunsTo (holdTime s.params s.variantQ) s t ∧
      t.block = ({ s with phase := .hsHigh, cnt := 0 } : State).block

/-- R91: `HS_HIGH` drives the line High for exactly `T_READY` ticks, 20 on this hardware; on the next the block is in
`HS_WAIT1` and does not drive. -/
def Obligations.ReadyPulseThenInput : Prop :=
  Params.thisHardware.tReady = 20 ∧
  ∀ s : State, s.phase = .hsHigh → s.cnt = 0 → 1 ≤ s.params.tReady → s.noReset s.params.tReady →
    (∀ k < s.params.tReady, ∃ t, RunsTo k s t ∧ t.block = ({ s with cnt := k } : State).block ∧
      lineOe t = .output ∧ lineOut t = .high) ∧
    ∃ t, RunsTo s.params.tReady s t ∧ t.block = ({ s with phase := .hsWait1, cnt := 0 } : State).block ∧
      lineOe t = .input

/-- R92: `HS_WAIT1` ignores the line for `T_ACK1` whole ticks and decides on the next by that one sample: High is a
FAILURE and skips `HS_WAIT2`, Low goes to `HS_WAIT2`. -/
def Obligations.FirstSampleAfterFortyTicks : Prop :=
  Params.thisHardware.tAck1 = 40 ∧
  ∀ (s : State) (waited : List Level) (sample : Level), s.phase = .hsWait1 → s.cnt = 0 →
    waited.length = s.params.tAck1 → s.hears (waited ++ [sample]) →
    (∀ k ≤ s.params.tAck1, ∃ t, RunsTo k s t ∧ t.block = ({ s with cnt := k } : State).block ∧ lineOe t = .input) ∧
    ∃ t, RunsTo (s.params.tAck1 + 1) s t ∧ t.block =
      (if sample = .high then ({ s with respOk := .failure, phase := .hsRelease, cnt := 0 } : State)
       else { s with phase := .hsWait2, cnt := 0 }).block

/-- R93: `HS_WAIT2` lasts `T_ACK2` ticks and decides by the sample of its last: High is SUCCESS, Low is FAILURE; either
way `HS_RELEASE` follows. -/
def Obligations.SecondSampleOnTheLastTick : Prop :=
  Params.thisHardware.tAck2 = 80 ∧
  ∀ (s : State) (waited : List Level) (sample : Level), s.phase = .hsWait2 → s.cnt = 0 →
    waited.length + 1 = s.params.tAck2 → s.hears (waited ++ [sample]) →
    (∀ k < s.params.tAck2, ∃ t, RunsTo k s t ∧ t.block = ({ s with cnt := k } : State).block ∧ lineOe t = .input) ∧
    ∃ t, RunsTo s.params.tAck2 s t ∧ t.block =
      ({ s with
        respOk := if sample = .high then .success else .failure, phase := .hsRelease, cnt := 0 } : State).block

/-- R94: `HS_RELEASE` leaves on the first tick that shows Low, the last permitted one included, and gives up on the
`T_TIMEOUT`-th tick that shows High; its outcome by `resp_ok`. -/
def Obligations.ReleaseWaitIsBounded : Prop :=
  ∀ s : State, s.phase = .hsRelease → s.cnt = 0 → 1 ≤ s.params.tTimeout →
    (∀ n < s.params.tTimeout, s.hears (List.replicate n .high ++ [.low]) →
      (∀ k ≤ n, ∃ t, RunsTo k s t ∧ t.block = ({ s with cnt := k } : State).block) ∧
      ∃ t, RunsTo (n + 1) s t ∧ t.block =
        (if s.respOk = .success then ({ s with phase := .bitWaitHigh, cnt := 0 } : State)
         else { s with status := .noResponse, done := true, phase := .idle, cnt := 0 }).block) ∧
    (s.hears (List.replicate s.params.tTimeout .high) →
      ∃ t, RunsTo s.params.tTimeout s t ∧ t.block =
        ({ s with
          status := if s.respOk = .success then .timeout else .noResponse
          done := true, phase := .idle, cnt := 0 } : State).block)

/-- R105: `BIT_WAIT_HIGH` leaves on the first tick that shows High, the last permitted one included, and completes with
`TIMEOUT` on the `T_TIMEOUT`-th tick that shows Low, keeping the partly received frame. -/
def Obligations.WaitForHighIsBounded : Prop :=
  ∀ s : State, s.phase = .bitWaitHigh → s.cnt = 0 → 1 ≤ s.params.tTimeout →
    (∀ n < s.params.tTimeout, s.hears (List.replicate n .low ++ [.high]) →
      (∀ k ≤ n, ∃ t, RunsTo k s t ∧ t.block = ({ s with cnt := k } : State).block) ∧
      ∃ t, RunsTo (n + 1) s t ∧ t.block = ({ s with phase := .bitDelay, cnt := 0 } : State).block) ∧
    (s.hears (List.replicate s.params.tTimeout .low) →
      ∃ t, RunsTo s.params.tTimeout s t ∧ t.block =
        ({ s with status := .timeout, done := true, phase := .idle, cnt := 0 } : State).block)

/-- R106: `BIT_DELAY` lasts `T_BIT` ticks, 40 on this hardware, with the line in Input mode, ignores the line on all but the last, and shifts the
level of the last into `sh`, whatever the line did before; it cannot fail. -/
def Obligations.DelayThenSampleShiftsTheBit : Prop :=
  Params.thisHardware.tBit = 40 ∧
  ∀ (s : State) (waited : List Level) (sample : Level), s.phase = .bitDelay → s.cnt = 0 →
    waited.length + 1 = s.params.tBit → s.hears (waited ++ [sample]) →
    (∀ k < s.params.tBit, ∃ t, RunsTo k s t ∧ t.block = ({ s with cnt := k } : State).block ∧ lineOe t = .input) ∧
    ∃ t, RunsTo s.params.tBit s t ∧ t.block =
      ({ s with
        sh := s.sh.extractLsb' 0 7 ++ (if sample = .high then 1#1 else 0#1)
        phase := .bitWaitLow, cnt := 0 } : State).block

/-- R107: `BIT_WAIT_LOW` ends the bit on the first tick that shows Low, the last permitted one included, and completes
with `TIMEOUT` on the `T_TIMEOUT`-th tick that shows High, the byte then not stored. -/
def Obligations.WaitForLowIsBounded : Prop :=
  ∀ s : State, s.phase = .bitWaitLow → s.cnt = 0 → 1 ≤ s.params.tTimeout →
    (∀ n < s.params.tTimeout, s.hears (List.replicate n .high ++ [.low]) →
      (∀ k ≤ n, ∃ t, RunsTo k s t ∧ t.block = ({ s with cnt := k } : State).block ∧ lineOe t = .input) ∧
      ∃ t, RunsTo (n + 1) s t ∧ t.block =
        (if s.bitCnt = 7 then
          (if s.byteIdx = 4 then
            ({ s with frame := writeByte s.frame s.byteIdx s.sh, bitCnt := 0, phase := .validate, cnt := 0 } : State)
           else { s with
            frame := writeByte s.frame s.byteIdx s.sh, bitCnt := 0, byteIdx := s.byteIdx + 1
            phase := .bitWaitHigh, cnt := 0 })
         else { s with bitCnt := s.bitCnt + 1, phase := .bitWaitHigh, cnt := 0 }).block) ∧
    (s.hears (List.replicate s.params.tTimeout .high) →
      ∃ t, RunsTo s.params.tTimeout s t ∧ t.block =
        ({ s with status := .timeout, done := true, phase := .idle, cnt := 0 } : State).block)

/-! ### The discriminator, the byte and the frame -/

/-- R108, row by row, for a state that enters `BIT_WAIT_HIGH` at tick `e`, a Low of `g` ticks, a High of `w >= 1` ticks.
(1) `g >= T_TIMEOUT`: `TIMEOUT` on tick `e + T_TIMEOUT - 1`, no bit. (2) `w <= T_BIT`, whatever the line does between
`t_h + w` and `t_h + T_BIT`: the level of tick `t_h + T_BIT` is the bit, 0 if it is Low, 1 if the line has risen again.
(3) If the line is Low there and on tick `t_h + T_BIT + 1`, the bit is complete on that tick.
(4) `T_BIT < w <= T_BIT + T_TIMEOUT`: bit 1, sampled at `t_h + T_BIT`, complete on tick `t_h + w`, the first Low.
(5) `w > T_BIT + T_TIMEOUT`: bit 1 is shifted in at `t_h + T_BIT`, then `TIMEOUT` on tick `t_h + T_BIT + T_TIMEOUT`. -/
def Obligations.DiscriminatorLaw : Prop :=
  ∀ (s : State) (g w : Nat), s.phase = .bitWaitHigh → s.cnt = 0 → s.params.positive = true → 1 ≤ w →
    (s.params.tTimeout ≤ g → s.hears (List.replicate g .low) →
      ∃ t, RunsTo s.params.tTimeout s t ∧
        t.block = ({ s with status := .timeout, done := true, phase := .idle, cnt := 0 } : State).block) ∧
    (∀ (between : List Level) (sample : Level), g < s.params.tTimeout → w + between.length = s.params.tBit →
      s.hears (List.replicate g .low ++ List.replicate w .high ++ between ++ [sample]) →
      ∃ t, RunsTo (g + s.params.tBit + 1) s t ∧
        t.block = ({ s with sh := shiftIn s.sh sample, phase := .bitWaitLow, cnt := 0 } : State).block) ∧
    (∀ between : List Level, g < s.params.tTimeout → w + between.length = s.params.tBit →
      s.hears (List.replicate g .low ++ List.replicate w .high ++ between ++ [.low, .low]) →
      ∃ t, RunsTo (g + s.params.tBit + 2) s t ∧
        t.block = ({ s with sh := shiftIn s.sh .low } : State).bitComplete.block) ∧
    (g < s.params.tTimeout → s.params.tBit < w → w ≤ s.params.tBit + s.params.tTimeout →
      s.hears (List.replicate g .low ++ List.replicate w .high ++ [.low]) →
      (∃ t, RunsTo (g + s.params.tBit + 1) s t ∧
        t.block = ({ s with sh := shiftIn s.sh .high, phase := .bitWaitLow, cnt := 0 } : State).block) ∧
      ∃ t, RunsTo (g + w + 1) s t ∧ t.block = ({ s with sh := shiftIn s.sh .high } : State).bitComplete.block) ∧
    (g < s.params.tTimeout → s.params.tBit + s.params.tTimeout < w →
      s.hears (List.replicate g .low ++ List.replicate w .high) →
      (∃ t, RunsTo (g + s.params.tBit + 1) s t ∧
        t.block = ({ s with sh := shiftIn s.sh .high, phase := .bitWaitLow, cnt := 0 } : State).block) ∧
      ∃ t, RunsTo (g + s.params.tBit + s.params.tTimeout + 1) s t ∧ t.block =
        ({ s with
          sh := shiftIn s.sh .high, status := .timeout, done := true, phase := .idle, cnt := 0 } : State).block)

/-- R109: the bit is 1 if and only if the line is High on the fortieth tick after the tick on which High was first
seen; so a High phase of exactly 40 ticks decodes to 0, and 41 ticks is the shortest that decodes to 1. -/
def Obligations.FortyTicksDecodeToZero : Prop :=
  ∀ (s : State) (g : Nat), s.phase = .bitWaitHigh → s.cnt = 0 → s.params.tBit = 40 → g < s.params.tTimeout →
    (∀ (between : List Level) (fortieth : Level), between.length = 39 →
      s.hears (List.replicate g .low ++ [.high] ++ between ++ [fortieth]) →
      ∃ t, RunsTo (g + 41) s t ∧ t.phase = .bitWaitLow ∧ (t.sh.getLsbD 0 = true ↔ fortieth = .high)) ∧
    (∀ w, 1 ≤ w → w ≤ 41 → s.hears (List.replicate g .low ++ List.replicate w .high ++ List.replicate (41 - w) .low) →
      ∃ t, RunsTo (g + 41) s t ∧ t.phase = .bitWaitLow ∧ (t.sh.getLsbD 0 = true ↔ w = 41))

/-- R66's table of High widths: with enough Low after the pulse, `decodedBit` says what the block does with the symbol
of width `w`: the bit enters `sh` and the bit is complete, or the read completes with `TIMEOUT`. -/
def Obligations.SymbolWidthDecidesTheBit : Prop :=
  ∀ (s : State) (g w : Nat), s.phase = .bitWaitHigh → s.cnt = 0 → s.params.positive = true → 1 ≤ w →
    g < s.params.tTimeout →
    s.hears (List.replicate g .low ++ List.replicate w .high ++ List.replicate (s.params.tBit + 2) .low) →
    ∃ n t, RunsTo n s t ∧
      match decodedBit s.params w with
      | some b => t.block = ({ s with sh := shiftIn s.sh (if b then .high else .low) } : State).bitComplete.block
      | none => t.phase = .idle ∧ t.done = true ∧ t.status = .timeout

/-- R110: eight shifts assemble a byte, first bit received in bit 7, whatever `sh` held before; that value is what
`frame[byte_idx]` receives and no other byte changes. -/
def Obligations.EightShiftsAssembleAByte : Prop :=
  ∀ (sh : Byte) (b7 b6 b5 b4 b3 b2 b1 b0 : Level),
    ([b7, b6, b5, b4, b3, b2, b1, b0].foldl shiftIn sh).toNat =
      128 * b7.bit.toNat + 64 * b6.bit.toNat + 32 * b5.bit.toNat + 16 * b4.bit.toNat +
      8 * b3.bit.toNat + 4 * b2.bit.toNat + 2 * b1.bit.toNat + b0.bit.toNat ∧
    ∀ s : State, s.sh = [b7, b6, b5, b4, b3, b2, b1, b0].foldl shiftIn sh → s.bitCnt = 7 → s.pins.lineIn = .low →
      ∃ t, exec .bitWaitLow s = .next t ∧
        ∀ i, readByte t.frame i =
          if i = s.byteIdx then [b7, b6, b5, b4, b3, b2, b1, b0].foldl shiftIn sh else readByte s.frame i

/-- R111: the end of an iteration. With `n = 8 * byte_idx + bit_cnt`, a Low in `BIT_WAIT_LOW` makes iteration `n`
into `n + 1` up to 39, and ends the frame after 39; the frame store is written at the end of the iterations 7, 15, 23,
31 and 39 only, at index `n div 8`. -/
def Obligations.BitsFillTheFrameInOrder : Prop :=
  ∀ s : State, s.pins.lineIn = .low → ∃ t, exec .bitWaitLow s = .next t ∧
    s.bitNumber ≤ 39 ∧
    (s.bitNumber < 39 → t.phase = .bitWaitHigh ∧ t.bitNumber = s.bitNumber + 1) ∧
    (s.bitNumber = 39 → t.phase = .validate ∧ t.byteIdx = 4 ∧ t.bitCnt = 0) ∧
    ∀ i, readByte t.frame i =
      if s.bitNumber % 8 = 7 ∧ i.val = s.bitNumber / 8 then s.sh else readByte s.frame i

/-- A state invariant of R16, R81 and R107: in the handshake the transient registers are clear, and in the decode every
frame byte not yet received is 0. -/
def Obligations.UnreceivedBytesAreZero : Prop :=
  ∀ s t : State,
    (s.handshaking → s.byteIdx = 0 ∧ s.bitCnt = 0 ∧ s.sh = 0 ∧ ∀ i, readByte s.frame i = 0) →
    (s.decoding → ∀ i, s.byteIdx ≤ i → readByte s.frame i = 0) →
    step s = .next t →
    (t.handshaking → t.byteIdx = 0 ∧ t.bitCnt = 0 ∧ t.sh = 0 ∧ ∀ i, readByte t.frame i = 0) ∧
    (t.decoding → ∀ i, t.byteIdx ≤ i → readByte t.frame i = 0)

/-! ### Whole reads -/

/-- R96: the outcomes of the handshake, from the tick a `READ` command is accepted. `lead` is what the line shows while
the block drives it, `first` and `second` the lines of the two acknowledgment phases with their samples, and the
release wait sees Low after `n < T_TIMEOUT` ticks of High, or `T_TIMEOUT` ticks of High. The last clause: the five
operations write nothing but `phase`, `cnt`, `resp_ok`, `status` and `done`. -/
def Obligations.HandshakeOutcomes : Prop :=
  (∀ (s : State) (v : Variant) (l : Level) (lead first second : List Level) (s1 s2 : Level) (n : Nat),
    s.acceptsRead v → s.params.positive = true → n < s.params.tTimeout →
    lead.length = holdTime s.params v + s.params.tReady →
    first.length = s.params.tAck1 → second.length + 1 = s.params.tAck2 →
    ∀ start : State, start =
      { s with
        variantQ := v, byteIdx := 0, bitCnt := 0, sh := 0, frame := clearedFrame, done := false, cnt := 0 } →
    (s1 = .high → s.hears (l :: lead ++ (first ++ [s1]) ++ (List.replicate n .high ++ [.low])) →
      ∃ t, RunsTo (1 + lead.length + (s.params.tAck1 + 1) + (n + 1)) s t ∧ t.block =
        ({ start with respOk := .failure, status := .noResponse, done := true, phase := .idle } : State).block) ∧
    (s1 = .high → s.hears (l :: lead ++ (first ++ [s1]) ++ List.replicate s.params.tTimeout .high) →
      ∃ t, RunsTo (1 + lead.length + (s.params.tAck1 + 1) + s.params.tTimeout) s t ∧ t.block =
        ({ start with respOk := .failure, status := .noResponse, done := true, phase := .idle } : State).block) ∧
    (s1 = .low → s.hears (l :: lead ++ (first ++ [s1]) ++ (second ++ [s2]) ++ (List.replicate n .high ++ [.low])) →
      ∃ t, RunsTo (1 + lead.length + (s.params.tAck1 + 1) + s.params.tAck2 + (n + 1)) s t ∧ t.block =
        (if s2 = .high then ({ start with respOk := .success, phase := .bitWaitHigh } : State)
         else { start with respOk := .failure, status := .noResponse, done := true, phase := .idle }).block) ∧
    (s1 = .low → s.hears (l :: lead ++ (first ++ [s1]) ++ (second ++ [s2]) ++
        List.replicate s.params.tTimeout .high) →
      ∃ t, RunsTo (1 + lead.length + (s.params.tAck1 + 1) + s.params.tAck2 + s.params.tTimeout) s t ∧ t.block =
        (if s2 = .high then ({ start with respOk := .success, status := .timeout, done := true, phase := .idle } : State)
         else { start with respOk := .failure, status := .noResponse, done := true, phase := .idle }).block)) ∧
  ∀ (i : Instr) (s t : State),
    i = .hsLow ∨ i = .hsHigh ∨ i = .hsWait1 ∨ i = .hsWait2 ∨ i = .hsRelease → exec i s = .next t →
    t = { s with phase := t.phase, cnt := t.cnt, respOk := t.respOk, status := t.status, done := t.done }

/-- R171's exact lengths of the two dead lines, with `B` busy ticks: line High throughout, `B = H + 61 + T_TIMEOUT`
with the parameters of this hardware; line Low throughout, `B = H + 142`. Both reads are busy on the `B` ticks after
the accepting one, show `done = 1` with `NO_RESPONSE` on the next, and the Reading is what it was. -/
def Obligations.DeadLinesGiveNoResponse : Prop :=
  ∀ (s : State) (v : Variant) (l : Level) (lead : List Level) (busyTicks : Nat), s.acceptsRead v →
    s.params.positive = true → lead.length = holdTime s.params v + s.params.tReady →
    (busyTicks = holdTime s.params v + s.params.tReady + s.params.tAck1 + 1 + s.params.tTimeout →
      s.hears (l :: lead ++ List.replicate (s.params.tAck1 + 1 + s.params.tTimeout) .high) →
      (∀ k, 1 ≤ k → k ≤ busyTicks → ∃ t, RunsTo k s t ∧ busy t = true) ∧
      ∃ t, RunsTo (busyTicks + 1) s t ∧
        t.phase = .idle ∧ t.done = true ∧ t.status = .noResponse ∧ t.respOk = .failure ∧
        t.readingValid = s.readingValid ∧ t.humRaw = s.humRaw ∧ t.tempRaw = s.tempRaw) ∧
    (busyTicks = holdTime s.params v + s.params.tReady + s.params.tAck1 + 1 + s.params.tAck2 + 1 →
      s.hears (l :: lead ++ List.replicate (s.params.tAck1 + 1 + s.params.tAck2 + 1) .low) →
      (∀ k, 1 ≤ k → k ≤ busyTicks → ∃ t, RunsTo k s t ∧ busy t = true) ∧
      ∃ t, RunsTo (busyTicks + 1) s t ∧
        t.phase = .idle ∧ t.done = true ∧ t.status = .noResponse ∧ t.respOk = .failure ∧
        t.readingValid = s.readingValid ∧ t.humRaw = s.humRaw ∧ t.tempRaw = s.tempRaw)

/-- R172 with R86, R87 and the document's first two properties: a read of the nominal sensor waveform
`SENSOR(d, f)`, `d <= 40`, on any instance that meets R173, is busy for exactly the ticks of R172's formula and then
delivers the frame: a valid one as the Reading, an invalid one as `CHECKSUM_MISMATCH` with the Reading unchanged. -/
def Obligations.NominalReadDeliversTheFrame : Prop :=
  ∀ (s : State) (v : Variant) (l : Level) (lead : List Level) (d : Nat) (f : RawFrame) (zeros ones busyTicks : Nat),
    s.acceptsRead v → s.params.wf = true → d ≤ 40 → lead.length = holdTime s.params v + s.params.tReady →
    s.hears (l :: lead ++ levelsOf (sensorWave d f)) →
    zeros = ((frameBits f).take 39).count false → ones = ((frameBits f).take 39).count true →
    busyTicks = holdTime s.params v + d + 273 + 77 * zeros + 120 * ones +
      (if f.checksum.getLsbD 0 = true then 29 else 0) →
    (∀ k, 1 ≤ k → k ≤ busyTicks → ∃ t, RunsTo k s t ∧ busy t = true) ∧
    ∃ t, RunsTo (busyTicks + 1) s t ∧ t.phase = .idle ∧ t.done = true ∧ t.frame = f ∧
      (frameValid f = true → t.status = .ok ∧ t.readingValid = true ∧
        t.humRaw.toNat = 256 * f.humidityHigh.toNat + f.humidityLow.toNat ∧
        t.tempRaw.toNat = 256 * f.tempHigh.toNat + f.tempLow.toNat) ∧
      (frameValid f = false → t.status = .checksumMismatch ∧ t.readingValid = s.readingValid ∧
        t.humRaw = s.humRaw ∧ t.tempRaw = s.tempRaw)

/-- R171: a read accepted at a tick is busy on the `B` ticks that follow and shows `done = 1` on the next, with `B` at
most the bound, whatever the inputs but reset are. -/
def Obligations.EveryReadEndsWithinTheBound : Prop :=
  ∀ (s : State) (v : Variant), s.acceptsRead v → s.params.positive = true →
    s.noReset (busyBound s.params (holdTime s.params v) + 1) →
    ∃ b ≤ busyBound s.params (holdTime s.params v),
      (∀ k, 1 ≤ k → k ≤ b → ∃ t, RunsTo k s t ∧ busy t = true) ∧
      ∃ t, RunsTo (b + 1) s t ∧ t.phase = .idle ∧ t.done = true

/-- R149: from every state that meets the invariant, and under any inputs without reset, the block reaches `IDLE`
within the bound. -/
def Obligations.TheBlockNeverHangs : Prop :=
  ∀ s : State, s.Inv → s.noReset (busyBound s.params (holdTime s.params s.variantQ)) →
    ∃ n ≤ busyBound s.params (holdTime s.params s.variantQ), ∃ t, RunsTo n s t ∧ t.phase = .idle

/-- R88: two reads of the same variant on the same parameters that hear the same line stay at the same place of the
read, end on the same tick with the same status and, when that is `OK`, the same Reading, whatever the states were
when the commands were accepted. -/
def Obligations.ReadDependsOnTheLineAlone : Prop :=
  ∀ (s1 s2 : State) (v : Variant) (l1 l2 : Level) (line : List Level),
    s1.acceptsRead v → s2.acceptsRead v → s1.params = s2.params →
    s1.hears (l1 :: line) → s2.hears (l2 :: line) →
    (∀ k, 1 ≤ k → k ≤ line.length → ∃ u, RunsTo k s1 u ∧ busy u = true) →
    ∃ t1 t2, RunsTo (line.length + 1) s1 t1 ∧ RunsTo (line.length + 1) s2 t2 ∧
      SameRead t1 t2 ∧ t1.done = t2.done ∧
      (t1.done = true → t1.status = t2.status) ∧
      (t1.done = true → t1.status = .ok →
        t1.readingValid = true ∧ t2.readingValid = true ∧ t1.humRaw = t2.humRaw ∧ t1.tempRaw = t2.tempRaw)

/-! ### Invariants and rules of the whole machine -/

/-- The invariants of R32 are kept by every step, with a reset or without, from every state that meets them. -/
def Obligations.InvariantIsKept : Prop :=
  ∀ s t : State, s.Inv → step s = .next t → t.Inv

/-- The reset state meets the invariants of R32, on this hardware and on every instance with parameters at least 1. -/
def Obligations.ResetMeetsTheInvariant : Prop :=
  State.reset.Inv ∧ ∀ s : State, s.isReset → s.params.positive = true → s.Inv

/-- R32: the invariants hold in every state reachable from reset under any inputs. -/
def Obligations.ReachableStatesMeetTheInvariant : Prop :=
  ∀ s : State, Reachable s → s.params.positive = true → s.Inv

/-- R12: the largest value of `cnt` in a state that meets the invariant, 17999 on this hardware; sixteen bits hold it
on every instance that meets R173. -/
def Obligations.CounterNeverOverflows : Prop :=
  ∀ s : State, s.Inv →
    s.cnt + 1 ≤ max s.params.tHoldA (max s.params.tHoldB (max s.params.tTimeout (max (s.params.tAck1 + 1)
      (max s.params.tAck2 (max s.params.tBit s.params.tReady))))) ∧
    (s.params = Params.thisHardware → s.cnt ≤ 17999) ∧
    (s.params.fitCounter = true → s.cnt < 65536)

/-- R7: `step` is total: every state has a next state, under every input. -/
def Obligations.EveryStateHasANextState : Prop :=
  ∀ s : State, ∃ t, step s = .next t

/-- A step without reset runs the operation that the decoder reads from the phase register (R11, R51), and then the
tick passes: the scheduled inputs move up, and free inputs follow the last (notes/assumptions/1.md). -/
def Obligations.StepRunsTheDecodedOperation : Prop :=
  ∀ (s t : State) (i : Instr), decode .ph s.phase.code.toNat = .ok i → i.wf = true → s.pins.rst = false →
    exec i s = .next t →
    fetch s = .ok i ∧ step s = .next t.nextTick ∧
    (∀ p ps, t.schedule = p :: ps → t.nextTick = { t with pins := p, schedule := ps, tick := t.tick + 1 }) ∧
    (t.schedule = [] → t.nextTick = { t with pins := Config.freePins (t.tick + 1), tick := t.tick + 1 })

/-- Every operation placed by its word in its own format is what the very next step performs. The model's own
`withFetchWord` (notes/assumptions/4.md and 5.md). -/
def Obligations.PlacedWordRunsNext : Prop :=
  ∀ (s t : State) (i : Instr),
    exec i (s.withFetchWord i.format.width (encode i)) = .next t →
    step (s.withFetchWord i.format.width (encode i)) = .next t.nextTick

/-- R160: a tick with `rst = 1` leads to the reset state of R30 whatever the state and the other inputs are, and any
other tick performs the phase operation named by `phase`. While `rst` stays 1 the block stays in the reset state, not
driving the line; the first tick after it with `rst = 0` and `start = 1` accepts a command. The parameters are those of
the instance. -/
def Obligations.ResetOverridesEverything : Prop :=
  ∀ s : State,
    (s.pins.rst = true → step s = .next
      ({ State.reset with params := s.params, pins := s.pins, schedule := s.schedule, tick := s.tick } : State).nextTick) ∧
    (s.pins.rst = false → ∃ t, exec s.phase.instr s = .next t ∧ step s = .next t.nextTick) ∧
    ∀ n, 1 ≤ n → List.replicate n true <+: s.upcoming.map Pins.rst →
      ∃ t, RunsTo n s t ∧ t.isReset ∧ t.params = s.params ∧
        busy t = false ∧ lineOe t = .input ∧ t.done = false ∧ t.status = .none ∧ t.readingValid = false ∧
        (t.pins.rst = false → t.pins.start = true →
          ∃ u, step t = .next u ∧ u.phase = .hsLow ∧ u.variantQ = t.pins.variant)

/-- R22, R128: over every step without reset, the Reading and `reading_valid` change only by a `VALIDATE` with a
matching checksum, which writes them together with `status` and `done`. -/
def Obligations.OnlyAGoodFrameChangesTheReading : Prop :=
  ∀ s t : State, s.pins.rst = false → step s = .next t →
    (s.phase = .validate ∧ frameValid s.frame = true →
      t.humRaw = s.frame.humidityHigh ++ s.frame.humidityLow ∧ t.tempRaw = s.frame.tempHigh ++ s.frame.tempLow ∧
      t.readingValid = true ∧ t.status = .ok ∧ t.done = true) ∧
    (¬(s.phase = .validate ∧ frameValid s.frame = true) →
      t.humRaw = s.humRaw ∧ t.tempRaw = s.tempRaw ∧ t.readingValid = s.readingValid ∧
      (outputs t).humInt = (outputs s).humInt ∧ (outputs t).humFrac = (outputs s).humFrac ∧
      (outputs t).tempInt = (outputs s).tempInt ∧ (outputs t).tempFrac = (outputs s).tempFrac)

/-- R19: from a state that meets the invariant, `done` is 1 after a step exactly when that step completed a read, so it
is 1 for exactly one tick after each read, the first `IDLE` tick. -/
def Obligations.DoneIsAOneTickPulse : Prop :=
  ∀ s t : State, s.Inv → s.pins.rst = false → step s = .next t →
    (t.done = true ↔ s.phase ≠ .idle ∧ t.phase = .idle) ∧ (s.done = true → t.done = false)

/-- R85 with R135 to R138: the steps that complete a read are the seven of the transition table, each with its status,
and no other step without reset writes `status`. -/
def Obligations.SevenCompletionsAndTheirCauses : Prop :=
  ∀ s t : State, s.pins.rst = false → step s = .next t →
    (s.phase ≠ .idle → t.phase = .idle →
      t.done = true ∧ t.cnt = 0 ∧
      ((t.status = .ok ∧ s.phase = .validate ∧ frameValid s.frame = true) ∨
       (t.status = .checksumMismatch ∧ s.phase = .validate ∧ frameValid s.frame = false) ∨
       (t.status = .noResponse ∧ s.phase = .hsRelease ∧ s.respOk = .failure ∧ s.pins.lineIn = .low) ∨
       (t.status = .noResponse ∧ s.phase = .hsRelease ∧ s.respOk = .failure ∧ s.pins.lineIn = .high ∧
         s.cnt + 1 = s.params.tTimeout) ∨
       (t.status = .timeout ∧ s.phase = .hsRelease ∧ s.respOk = .success ∧ s.pins.lineIn = .high ∧
         s.cnt + 1 = s.params.tTimeout) ∨
       (t.status = .timeout ∧ s.phase = .bitWaitHigh ∧ s.pins.lineIn = .low ∧ s.cnt + 1 = s.params.tTimeout) ∨
       (t.status = .timeout ∧ s.phase = .bitWaitLow ∧ s.pins.lineIn = .high ∧ s.cnt + 1 = s.params.tTimeout))) ∧
    (s.phase = .idle ∨ t.phase ≠ .idle → t.status = s.status)

/-- R28 with R12: the only changes of `phase` without reset, and the timer: 0 after every change, one more on every
tick of a phase that stays, unchanged in `IDLE`. -/
def Obligations.PhasesFollowTheTable : Prop :=
  ∀ s t : State, s.pins.rst = false → step s = .next t →
    (t.phase = s.phase ∨ (s.phase, t.phase) ∈
      [(Phase.idle, Phase.hsLow), (.hsLow, .hsHigh), (.hsHigh, .hsWait1), (.hsWait1, .hsWait2), (.hsWait1, .hsRelease),
       (.hsWait2, .hsRelease), (.hsRelease, .bitWaitHigh), (.hsRelease, .idle), (.bitWaitHigh, .bitDelay),
       (.bitWaitHigh, .idle), (.bitDelay, .bitWaitLow), (.bitWaitLow, .bitWaitHigh), (.bitWaitLow, .validate),
       (.bitWaitLow, .idle), (.validate, .idle)]) ∧
    (t.phase ≠ s.phase → t.cnt = 0) ∧
    (t.phase = s.phase → s.phase ≠ .idle → t.cnt = s.cnt + 1) ∧
    (t.phase = s.phase → s.phase = .idle → t.cnt = s.cnt)

/-- R42, R144: the block takes the line only by accepting a command, drives Low and then High, gives it up only at the
end of `HS_HIGH`, and drives in no other phase. -/
def Obligations.LineIsTakenAndGivenUpOnce : Prop :=
  ∀ s t : State, s.pins.rst = false → step s = .next t →
    (lineOe s = .input → lineOe t = .output → s.phase = .idle ∧ s.pins.start = true ∧ t.phase = .hsLow ∧
      lineOut t = .low) ∧
    (lineOe s = .output → lineOe t = .input → s.phase = .hsHigh ∧ t.phase = .hsWait1 ∧ lineOut s = .high) ∧
    (lineOe s = .output → lineOe t = .output → lineOut s = .high → lineOut t = .high)

/-- R25, R53, R92, R93, R106: where the level of the line is not looked at, the step does not depend on it: in `IDLE`,
`HS_LOW`, `HS_HIGH` and `VALIDATE`, and in the three delay-then-sample phases on every tick but the sample tick. -/
def Obligations.LineIsReadOnlyWhereSampled : Prop :=
  ∀ (s : State) (l : Level),
    s.phase = .idle ∨ s.phase = .hsLow ∨ s.phase = .hsHigh ∨ s.phase = .validate ∨
      (s.phase = .hsWait1 ∧ s.cnt ≠ s.params.tAck1) ∨ (s.phase = .hsWait2 ∧ s.cnt + 1 ≠ s.params.tAck2) ∨
      (s.phase = .bitDelay ∧ s.cnt + 1 ≠ s.params.tBit) →
    step { s with pins := { s.pins with lineIn := l } } = step s

/-- R27: no operation writes the instance's parameters or the environment; a step hands on the parameters and takes one
tuple of scheduled inputs (notes/assumptions/1.md and 2.md). -/
def Obligations.InstanceAndInputsAreNotWritten : Prop :=
  (∀ (i : Instr) (s t : State), exec i s = .next t →
    t.params = s.params ∧ t.pins = s.pins ∧ t.schedule = s.schedule ∧ t.tick = s.tick) ∧
  ∀ s t : State, step s = .next t → t.params = s.params ∧ t.schedule = s.schedule.tail ∧ t.tick = s.tick + 1

/-! ### Arithmetic, ports, encodings -/

/-- R121: the checksum is the sum of the four data bytes modulo 256, the sum lies in 0 .. 1020, adding in eight bits
gives the same, a frame is valid exactly when it equals the fifth byte, and every change of one single byte of a valid
frame is detected. -/
def Obligations.ChecksumDetectsEverySingleByteError : Prop :=
  ∀ f : RawFrame,
    (checksumOf f).toNat = (f.humidityHigh.toNat + f.humidityLow.toNat + f.tempHigh.toNat + f.tempLow.toNat) % 256 ∧
    f.humidityHigh.toNat + f.humidityLow.toNat + f.tempHigh.toNat + f.tempLow.toNat ≤ 1020 ∧
    checksumOf f = f.humidityHigh + f.humidityLow + f.tempHigh + f.tempLow ∧
    (frameValid f = true ↔ checksumOf f = f.checksum) ∧
    (frameValid f = true → ∀ (i : ByteIdx) (b : Byte), b ≠ readByte f i → frameValid (writeByte f i b) = false)

/-- R122, R125: the raw readings as numbers, of a frame and in the registers after `VALIDATE` stored it; the top bit of
the temperature is the top bit of `tempHigh`, a magnitude bit. -/
def Obligations.RawReadingsAreBigEndian : Prop :=
  (∀ f : RawFrame,
    (humidityOf f).toNat = 256 * f.humidityHigh.toNat + f.humidityLow.toNat ∧
    (temperatureOf f).toNat = 256 * f.tempHigh.toNat + f.tempLow.toNat ∧
    (temperatureOf f).getLsbD 15 = f.tempHigh.getLsbD 7) ∧
  ∀ s : State, frameValid s.frame = true → ∃ t, exec .validate s = .next t ∧
    t.humRaw.toNat = 256 * (readByte s.frame 0).toNat + (readByte s.frame 1).toNat ∧
    t.tempRaw.toNat = 256 * (readByte s.frame 2).toNat + (readByte s.frame 3).toNat

/-- R124: the decimal outputs: `raw = 10 * int + frac`, `frac <= 9`, `int <= 6553`, for both quantities. -/
def Obligations.DecimalOutputsAreExact : Prop :=
  ∀ s : State,
    (outputs s).humInt.toNat = s.humRaw.toNat / 10 ∧ (outputs s).humFrac.toNat = s.humRaw.toNat % 10 ∧
    (outputs s).tempInt.toNat = s.tempRaw.toNat / 10 ∧ (outputs s).tempFrac.toNat = s.tempRaw.toNat % 10 ∧
    s.humRaw.toNat = 10 * (outputs s).humInt.toNat + (outputs s).humFrac.toNat ∧
    s.tempRaw.toNat = 10 * (outputs s).tempInt.toNat + (outputs s).tempFrac.toNat ∧
    (outputs s).humFrac.toNat ≤ 9 ∧ (outputs s).tempFrac.toNat ≤ 9 ∧
    (outputs s).humInt.toNat ≤ 6553 ∧ (outputs s).tempInt.toNat ≤ 6553

/-- R23, R26: three outputs are functions of the phase alone, and all outputs are functions of the block alone: they do
not depend on the inputs. -/
def Obligations.OutputsFollowTheState : Prop :=
  (∀ s : State,
    ((outputs s).busy = false ↔ s.phase = .idle) ∧
    ((outputs s).lineOe = .output ↔ s.phase = .hsLow ∨ s.phase = .hsHigh) ∧
    ((outputs s).lineOut = .low ↔ s.phase = .hsLow) ∧
    (outputs s).done = s.done ∧ (outputs s).status = s.status ∧ (outputs s).readingValid = s.readingValid ∧
    (outputs s).humRaw = s.humRaw ∧ (outputs s).tempRaw = s.tempRaw) ∧
  ∀ s t : State, s.block = t.block → outputs s = outputs t

/-- R65, R44: the forty bits of a frame and its five bytes carry each other, and bit `39 - 8 * i - j` of the word, the
`(8 * i + j)`-th to arrive, is bit `7 - j` of `frame[i]`. -/
def Obligations.FrameWordAndBytesAgree : Prop :=
  (∀ f : RawFrame, RawFrame.ofWord f.toWord = f) ∧ (∀ w : BitVec 40, (RawFrame.ofWord w).toWord = w) ∧
  ∀ (f : RawFrame) (i : ByteIdx) (j : Nat), j < 8 →
    f.toWord.getLsbD (39 - 8 * i.val - j) = (readByte f i).getLsbD (7 - j) ∧
    (frameBits f)[8 * i.val + j]? = some ((readByte f i).getLsbD (7 - j))

/-- R61, R62: the decoder reads every operation back from its own word, in its own format. -/
def Obligations.DecodeEncodeAgree : Prop :=
  ∀ i : Instr, i.wf = true → decode i.format (encode i) = .ok i

/-- R60, R61, R62, R68: the words that decode are the encodings, and `01`, the second word of `NOP`; the phase codes 10
to 15 are refused by name, and so is a word wider than its format. -/
def Obligations.OnlyEncodingsDecode : Prop :=
  (∀ (f : Format) (w : Nat) (i : Instr), decode f w = .ok i →
    i.format = f ∧ (w = encode i ∨ (f = .cmd ∧ w = 0b01 ∧ i = .nop))) ∧
  (∀ w, 10 ≤ w → w ≤ 15 → decode .ph w = .error (.reservedPhaseCode (BitVec.ofNat 4 w))) ∧
  (∀ w, 16 ≤ w → decode .ph w = .error (.wordTooWide w)) ∧ ∀ w, 4 ≤ w → decode .cmd w = .error (.wordTooWide w)

/-- R61, R62: a few words written out bit by bit from the tables. -/
def Obligations.WrittenOutWordsDecode : Prop :=
  decode .cmd 0b10 = .ok .readA ∧ decode .cmd 0b11 = .ok .readB ∧ decode .ph 0b0000 = .ok .idle ∧
  decode .ph 0b0011 = .ok .hsWait1 ∧ decode .ph 0b0111 = .ok .bitDelay ∧ decode .ph 0b1001 = .ok .validate

/-- R63, R64: the codes of the result kinds and of the one-bit enumerations; the status codes 5 to 7 are reserved. -/
def Obligations.CodesOfTheEnumerations : Prop :=
  (∀ (c : BitVec 3) (k : Status), Status.ofCode c = some k ↔ k.code = c) ∧
  (∀ c : BitVec 3, Status.ofCode c = none ↔ 5 ≤ c.toNat) ∧
  (Status.none.code = 0 ∧ Status.ok.code = 1 ∧ Status.noResponse.code = 2 ∧ Status.timeout.code = 3 ∧
    Status.checksumMismatch.code = 4) ∧
  (Level.low.bit = 0 ∧ Level.high.bit = 1) ∧ (PinMode.input.bit = 0 ∧ PinMode.output.bit = 1) ∧
  (Variant.variantA.bit = 0 ∧ Variant.variantB.bit = 1) ∧ (Response.failure.bit = 0 ∧ Response.success.bit = 1)

/-! ### Two blocks side by side -/

/-- R29 and R81, with R88's first step: whatever two `IDLE` blocks of one instance held, accepting the same command makes
them agree on every element that a later tick of the read looks at; nothing invisible survives. -/
def Obligations.AcceptedReadsAgree : Prop :=
  ∀ (s1 s2 : State) (v : Variant), s1.acceptsRead v → s2.acceptsRead v → s1.params = s2.params →
    ∃ t1 t2, step s1 = .next t1 ∧ step s2 = .next t2 ∧ SameRead t1 t2 ∧ t1.done = false ∧ t2.done = false

/-- R29 and R88: an invariant of two blocks side by side, kept by every step. Two states that stand at the same place of
a read, under the same reset, the same command where commands are read and the same level of the line elsewhere,
step to states that do so again; a step that completes the read completes both, with the same status and, when that
is `OK`, the same valid Reading. Nothing is asked of `status`, `reading_valid`, `hum_raw`, `temp_raw` and `done`. -/
def Obligations.AgreementOfReadsIsKept : Prop :=
  ∀ s1 s2 t1 t2 : State, SameRead s1 s2 → s1.pins.rst = s2.pins.rst →
    (s1.phase = .idle → s1.pins.start = s2.pins.start ∧ s1.pins.variant = s2.pins.variant) →
    (s1.phase ≠ .idle → s1.pins.lineIn = s2.pins.lineIn) →
    step s1 = .next t1 → step s2 = .next t2 →
    SameRead t1 t2 ∧
    (s1.pins.rst = false → s1.phase ≠ .idle → t1.phase = .idle →
      t1.done = true ∧ t2.done = true ∧ t1.status = t2.status ∧
      (t1.status = .ok →
        t1.readingValid = true ∧ t2.readingValid = true ∧ t1.humRaw = t2.humRaw ∧ t1.tempRaw = t2.tempRaw))
end

