-- ==== Sys2Proof/Laws/Decode.lean ====
section
/-! SUPPORT. The codes of the one-bit enumerations and of the status, read back. -/

namespace Sys2Proof

@[simp] theorem level_ofBit_bit (l : Level) : Level.ofBit l.bit = l := by cases l <;> rfl
@[simp] theorem pinMode_ofBit_bit (m : PinMode) : PinMode.ofBit m.bit = m := by cases m <;> rfl
@[simp] theorem variant_ofBit_bit (v : Variant) : Variant.ofBit v.bit = v := by cases v <;> rfl
@[simp] theorem response_ofBit_bit (r : Response) : Response.ofBit r.bit = r := by cases r <;> rfl
@[simp] theorem status_ofCode_code (k : Status) : Status.ofCode k.code = some k := by cases k <;> rfl
@[simp] theorem decodePhase_code (p : Phase) : decodePhase p.code = some p := by cases p <;> rfl

/-- A completion never writes the status `NONE`. -/
@[simp] theorem resultKind_status_ne_none (k : ResultKind) : k.status ≠ Status.none := by cases k <;> decide

end Sys2Proof
end

