-- ==== Sys2Proof/Laws/Operands.lean ====
section
/-! SUPPORT. The laws of the operands: the frame store is read where it was written and nowhere else, and the word
form of each operand. -/

namespace Sys2Proof.Machine

@[simp] theorem readByte_writeByte_same (f : RawFrame) (i : ByteIdx) (b : Byte) :
    readByte (writeByte f i b) i = b := by
  match i with
  | 0 => rfl
  | 1 => rfl
  | 2 => rfl
  | 3 => rfl
  | 4 => rfl

theorem readByte_writeByte_other (f : RawFrame) (i j : ByteIdx) (b : Byte) (h : j ≠ i) :
    readByte (writeByte f i b) j = readByte f j := by
  fin_cases i <;> fin_cases j <;> first | rfl | exact absurd rfl h

/-- A frame is its five bytes. -/
theorem frame_ext_bytes (f g : RawFrame) (h : ∀ i, readByte f i = readByte g i) : f = g := by
  cases f; cases g
  have h0 := h 0; have h1 := h 1; have h2 := h 2; have h3 := h 3; have h4 := h 4
  simp only [readByte] at h0 h1 h2 h3 h4
  subst h0 h1 h2 h3 h4; rfl

/-- A shift doubles the register modulo 256 and adds the bit. -/
theorem shiftIn_toNat (sh : Byte) (b : Level) :
    (shiftIn sh b).toNat = (2 * sh.toNat + b.bit.toNat) % 256 := by
  revert sh; cases b <;> decide

/-- A byte appended below: the value is 256 times the upper part and the byte. -/
theorem append_byte_toNat (n : Nat) (a : BitVec n) (b : Byte) : (a ++ b).toNat = 256 * a.toNat + b.toNat := by
  rw [BitVec.toNat_append, ← Nat.shiftLeft_add_eq_or_of_lt b.isLt, Nat.shiftLeft_eq]; omega

/-- The raw reading as a number. -/
theorem rawReading_toNat (high low : Byte) : (rawReading high low).toNat = 256 * high.toNat + low.toNat :=
  append_byte_toNat 8 high low

/-- The frame word as a number. -/
theorem toWord_toNat (f : RawFrame) : f.toWord.toNat =
    256 * (256 * (256 * (256 * f.humidityHigh.toNat + f.humidityLow.toNat) + f.tempHigh.toNat) + f.tempLow.toNat) +
      f.checksum.toNat := by
  refine (append_byte_toNat 32 _ _).trans ?_
  rw [append_byte_toNat 24, append_byte_toNat 16, append_byte_toNat 8]

/-- The frame is valid exactly when the truncated sum equals the fifth byte. -/
theorem frameValid_iff (f : RawFrame) : frameValid f = true ↔ checksumOf f = f.checksum := by
  simp [frameValid]

theorem lastTickOf_iff (s : State) (n : Nat) : lastTickOf s n = true ↔ s.cnt + 1 = n := by
  simp [lastTickOf]

theorem elapsed_iff (s : State) (n : Nat) : elapsed s n = true ↔ s.cnt = n := by
  simp [elapsed]

end Sys2Proof.Machine
end

