-- ==== Sys2Proof/Laws/PerInstr.lean ====
section
/-! SUPPORT. A statement about every instruction as syntax, one lemma per constructor: its word fits the width of its
format (spec/30_encoding.md R60: every format has a fixed length). -/

namespace Sys2Proof.Laws.WordFits

/-- The word of the instruction has no bit above its format's width. -/
def Statement (i : Instr) : Prop := encode i < 2 ^ i.format.width

theorem nop : Statement .nop := by unfold Statement; decide
theorem readA : Statement .readA := by unfold Statement; decide
theorem readB : Statement .readB := by unfold Statement; decide
theorem idle : Statement .idle := by unfold Statement; decide
theorem hsLow : Statement .hsLow := by unfold Statement; decide
theorem hsHigh : Statement .hsHigh := by unfold Statement; decide
theorem hsWait1 : Statement .hsWait1 := by unfold Statement; decide
theorem hsWait2 : Statement .hsWait2 := by unfold Statement; decide
theorem hsRelease : Statement .hsRelease := by unfold Statement; decide
theorem bitWaitHigh : Statement .bitWaitHigh := by unfold Statement; decide
theorem bitDelay : Statement .bitDelay := by unfold Statement; decide
theorem bitWaitLow : Statement .bitWaitLow := by unfold Statement; decide
theorem validate : Statement .validate := by unfold Statement; decide

end Sys2Proof.Laws.WordFits
end

