-- ==== Sys2Proof/Laws/State.lean ====
section
/-! SUPPORT. One lemma per field per update of the state, each true by unfolding the update once, so that no later
proof unfolds one; and the same for `nextTick`, which leaves every element of `S_t` alone. -/

namespace Sys2Proof.Machine

/-! ### `goto P` -/

@[simp] theorem goto_phase (s : State) (p : Phase) : (s.goto p).phase = p := rfl
@[simp] theorem goto_cnt (s : State) (p : Phase) : (s.goto p).cnt = 0 := rfl
@[simp] theorem goto_byteIdx (s : State) (p : Phase) : (s.goto p).byteIdx = s.byteIdx := rfl
@[simp] theorem goto_bitCnt (s : State) (p : Phase) : (s.goto p).bitCnt = s.bitCnt := rfl
@[simp] theorem goto_sh (s : State) (p : Phase) : (s.goto p).sh = s.sh := rfl
@[simp] theorem goto_frame (s : State) (p : Phase) : (s.goto p).frame = s.frame := rfl
@[simp] theorem goto_variantQ (s : State) (p : Phase) : (s.goto p).variantQ = s.variantQ := rfl
@[simp] theorem goto_respOk (s : State) (p : Phase) : (s.goto p).respOk = s.respOk := rfl
@[simp] theorem goto_done (s : State) (p : Phase) : (s.goto p).done = s.done := rfl
@[simp] theorem goto_status (s : State) (p : Phase) : (s.goto p).status = s.status := rfl
@[simp] theorem goto_readingValid (s : State) (p : Phase) : (s.goto p).readingValid = s.readingValid := rfl
@[simp] theorem goto_humRaw (s : State) (p : Phase) : (s.goto p).humRaw = s.humRaw := rfl
@[simp] theorem goto_tempRaw (s : State) (p : Phase) : (s.goto p).tempRaw = s.tempRaw := rfl
@[simp] theorem goto_params (s : State) (p : Phase) : (s.goto p).params = s.params := rfl
@[simp] theorem goto_pins (s : State) (p : Phase) : (s.goto p).pins = s.pins := rfl
@[simp] theorem goto_schedule (s : State) (p : Phase) : (s.goto p).schedule = s.schedule := rfl
@[simp] theorem goto_tick (s : State) (p : Phase) : (s.goto p).tick = s.tick := rfl

/-! ### the branch not shown -/

@[simp] theorem stay_phase (s : State) : (s.stay).phase = s.phase := rfl
@[simp] theorem stay_cnt (s : State) : (s.stay).cnt = s.cnt + 1 := rfl
@[simp] theorem stay_byteIdx (s : State) : (s.stay).byteIdx = s.byteIdx := rfl
@[simp] theorem stay_bitCnt (s : State) : (s.stay).bitCnt = s.bitCnt := rfl
@[simp] theorem stay_sh (s : State) : (s.stay).sh = s.sh := rfl
@[simp] theorem stay_frame (s : State) : (s.stay).frame = s.frame := rfl
@[simp] theorem stay_variantQ (s : State) : (s.stay).variantQ = s.variantQ := rfl
@[simp] theorem stay_respOk (s : State) : (s.stay).respOk = s.respOk := rfl
@[simp] theorem stay_done (s : State) : (s.stay).done = s.done := rfl
@[simp] theorem stay_status (s : State) : (s.stay).status = s.status := rfl
@[simp] theorem stay_readingValid (s : State) : (s.stay).readingValid = s.readingValid := rfl
@[simp] theorem stay_humRaw (s : State) : (s.stay).humRaw = s.humRaw := rfl
@[simp] theorem stay_tempRaw (s : State) : (s.stay).tempRaw = s.tempRaw := rfl
@[simp] theorem stay_params (s : State) : (s.stay).params = s.params := rfl
@[simp] theorem stay_pins (s : State) : (s.stay).pins = s.pins := rfl
@[simp] theorem stay_schedule (s : State) : (s.stay).schedule = s.schedule := rfl
@[simp] theorem stay_tick (s : State) : (s.stay).tick = s.tick := rfl

/-! ### `complete(code)` -/

@[simp] theorem complete_phase (s : State) (k : ResultKind) : (s.complete k).phase = .idle := rfl
@[simp] theorem complete_cnt (s : State) (k : ResultKind) : (s.complete k).cnt = 0 := rfl
@[simp] theorem complete_byteIdx (s : State) (k : ResultKind) : (s.complete k).byteIdx = s.byteIdx := rfl
@[simp] theorem complete_bitCnt (s : State) (k : ResultKind) : (s.complete k).bitCnt = s.bitCnt := rfl
@[simp] theorem complete_sh (s : State) (k : ResultKind) : (s.complete k).sh = s.sh := rfl
@[simp] theorem complete_frame (s : State) (k : ResultKind) : (s.complete k).frame = s.frame := rfl
@[simp] theorem complete_variantQ (s : State) (k : ResultKind) : (s.complete k).variantQ = s.variantQ := rfl
@[simp] theorem complete_respOk (s : State) (k : ResultKind) : (s.complete k).respOk = s.respOk := rfl
@[simp] theorem complete_done (s : State) (k : ResultKind) : (s.complete k).done = true := rfl
@[simp] theorem complete_status (s : State) (k : ResultKind) : (s.complete k).status = k.status := rfl
@[simp] theorem complete_readingValid (s : State) (k : ResultKind) : (s.complete k).readingValid = s.readingValid := rfl
@[simp] theorem complete_humRaw (s : State) (k : ResultKind) : (s.complete k).humRaw = s.humRaw := rfl
@[simp] theorem complete_tempRaw (s : State) (k : ResultKind) : (s.complete k).tempRaw = s.tempRaw := rfl
@[simp] theorem complete_params (s : State) (k : ResultKind) : (s.complete k).params = s.params := rfl
@[simp] theorem complete_pins (s : State) (k : ResultKind) : (s.complete k).pins = s.pins := rfl
@[simp] theorem complete_schedule (s : State) (k : ResultKind) : (s.complete k).schedule = s.schedule := rfl
@[simp] theorem complete_tick (s : State) (k : ResultKind) : (s.complete k).tick = s.tick := rfl

/-! ### `done <- 0` -/

@[simp] theorem clearDone_phase (s : State) : (s.clearDone).phase = s.phase := rfl
@[simp] theorem clearDone_cnt (s : State) : (s.clearDone).cnt = s.cnt := rfl
@[simp] theorem clearDone_byteIdx (s : State) : (s.clearDone).byteIdx = s.byteIdx := rfl
@[simp] theorem clearDone_bitCnt (s : State) : (s.clearDone).bitCnt = s.bitCnt := rfl
@[simp] theorem clearDone_sh (s : State) : (s.clearDone).sh = s.sh := rfl
@[simp] theorem clearDone_frame (s : State) : (s.clearDone).frame = s.frame := rfl
@[simp] theorem clearDone_variantQ (s : State) : (s.clearDone).variantQ = s.variantQ := rfl
@[simp] theorem clearDone_respOk (s : State) : (s.clearDone).respOk = s.respOk := rfl
@[simp] theorem clearDone_done (s : State) : (s.clearDone).done = false := rfl
@[simp] theorem clearDone_status (s : State) : (s.clearDone).status = s.status := rfl
@[simp] theorem clearDone_readingValid (s : State) : (s.clearDone).readingValid = s.readingValid := rfl
@[simp] theorem clearDone_humRaw (s : State) : (s.clearDone).humRaw = s.humRaw := rfl
@[simp] theorem clearDone_tempRaw (s : State) : (s.clearDone).tempRaw = s.tempRaw := rfl
@[simp] theorem clearDone_params (s : State) : (s.clearDone).params = s.params := rfl
@[simp] theorem clearDone_pins (s : State) : (s.clearDone).pins = s.pins := rfl
@[simp] theorem clearDone_schedule (s : State) : (s.clearDone).schedule = s.schedule := rfl
@[simp] theorem clearDone_tick (s : State) : (s.clearDone).tick = s.tick := rfl

/-! ### the acceptance of a command -/

@[simp] theorem acceptRead_phase (s : State) (v : Variant) : (s.acceptRead v).phase = .hsLow := rfl
@[simp] theorem acceptRead_cnt (s : State) (v : Variant) : (s.acceptRead v).cnt = 0 := rfl
@[simp] theorem acceptRead_byteIdx (s : State) (v : Variant) : (s.acceptRead v).byteIdx = 0 := rfl
@[simp] theorem acceptRead_bitCnt (s : State) (v : Variant) : (s.acceptRead v).bitCnt = 0 := rfl
@[simp] theorem acceptRead_sh (s : State) (v : Variant) : (s.acceptRead v).sh = 0 := rfl
@[simp] theorem acceptRead_frame (s : State) (v : Variant) : (s.acceptRead v).frame = clearedFrame := rfl
@[simp] theorem acceptRead_variantQ (s : State) (v : Variant) : (s.acceptRead v).variantQ = v := rfl
@[simp] theorem acceptRead_respOk (s : State) (v : Variant) : (s.acceptRead v).respOk = .failure := rfl
@[simp] theorem acceptRead_done (s : State) (v : Variant) : (s.acceptRead v).done = false := rfl
@[simp] theorem acceptRead_status (s : State) (v : Variant) : (s.acceptRead v).status = s.status := rfl
@[simp] theorem acceptRead_readingValid (s : State) (v : Variant) : (s.acceptRead v).readingValid = s.readingValid := rfl
@[simp] theorem acceptRead_humRaw (s : State) (v : Variant) : (s.acceptRead v).humRaw = s.humRaw := rfl
@[simp] theorem acceptRead_tempRaw (s : State) (v : Variant) : (s.acceptRead v).tempRaw = s.tempRaw := rfl
@[simp] theorem acceptRead_params (s : State) (v : Variant) : (s.acceptRead v).params = s.params := rfl
@[simp] theorem acceptRead_pins (s : State) (v : Variant) : (s.acceptRead v).pins = s.pins := rfl
@[simp] theorem acceptRead_schedule (s : State) (v : Variant) : (s.acceptRead v).schedule = s.schedule := rfl
@[simp] theorem acceptRead_tick (s : State) (v : Variant) : (s.acceptRead v).tick = s.tick := rfl

/-! ### `resp_ok <- r` -/

@[simp] theorem setResponse_phase (s : State) (r : Response) : (s.setResponse r).phase = s.phase := rfl
@[simp] theorem setResponse_cnt (s : State) (r : Response) : (s.setResponse r).cnt = s.cnt := rfl
@[simp] theorem setResponse_byteIdx (s : State) (r : Response) : (s.setResponse r).byteIdx = s.byteIdx := rfl
@[simp] theorem setResponse_bitCnt (s : State) (r : Response) : (s.setResponse r).bitCnt = s.bitCnt := rfl
@[simp] theorem setResponse_sh (s : State) (r : Response) : (s.setResponse r).sh = s.sh := rfl
@[simp] theorem setResponse_frame (s : State) (r : Response) : (s.setResponse r).frame = s.frame := rfl
@[simp] theorem setResponse_variantQ (s : State) (r : Response) : (s.setResponse r).variantQ = s.variantQ := rfl
@[simp] theorem setResponse_respOk (s : State) (r : Response) : (s.setResponse r).respOk = r := rfl
@[simp] theorem setResponse_done (s : State) (r : Response) : (s.setResponse r).done = s.done := rfl
@[simp] theorem setResponse_status (s : State) (r : Response) : (s.setResponse r).status = s.status := rfl
@[simp] theorem setResponse_readingValid (s : State) (r : Response) : (s.setResponse r).readingValid = s.readingValid := rfl
@[simp] theorem setResponse_humRaw (s : State) (r : Response) : (s.setResponse r).humRaw = s.humRaw := rfl
@[simp] theorem setResponse_tempRaw (s : State) (r : Response) : (s.setResponse r).tempRaw = s.tempRaw := rfl
@[simp] theorem setResponse_params (s : State) (r : Response) : (s.setResponse r).params = s.params := rfl
@[simp] theorem setResponse_pins (s : State) (r : Response) : (s.setResponse r).pins = s.pins := rfl
@[simp] theorem setResponse_schedule (s : State) (r : Response) : (s.setResponse r).schedule = s.schedule := rfl
@[simp] theorem setResponse_tick (s : State) (r : Response) : (s.setResponse r).tick = s.tick := rfl

/-! ### the shift of a bit -/

@[simp] theorem shiftBit_phase (s : State) (b : Level) : (s.shiftBit b).phase = s.phase := rfl
@[simp] theorem shiftBit_cnt (s : State) (b : Level) : (s.shiftBit b).cnt = s.cnt := rfl
@[simp] theorem shiftBit_byteIdx (s : State) (b : Level) : (s.shiftBit b).byteIdx = s.byteIdx := rfl
@[simp] theorem shiftBit_bitCnt (s : State) (b : Level) : (s.shiftBit b).bitCnt = s.bitCnt := rfl
@[simp] theorem shiftBit_sh (s : State) (b : Level) : (s.shiftBit b).sh = shiftIn s.sh b := rfl
@[simp] theorem shiftBit_frame (s : State) (b : Level) : (s.shiftBit b).frame = s.frame := rfl
@[simp] theorem shiftBit_variantQ (s : State) (b : Level) : (s.shiftBit b).variantQ = s.variantQ := rfl
@[simp] theorem shiftBit_respOk (s : State) (b : Level) : (s.shiftBit b).respOk = s.respOk := rfl
@[simp] theorem shiftBit_done (s : State) (b : Level) : (s.shiftBit b).done = s.done := rfl
@[simp] theorem shiftBit_status (s : State) (b : Level) : (s.shiftBit b).status = s.status := rfl
@[simp] theorem shiftBit_readingValid (s : State) (b : Level) : (s.shiftBit b).readingValid = s.readingValid := rfl
@[simp] theorem shiftBit_humRaw (s : State) (b : Level) : (s.shiftBit b).humRaw = s.humRaw := rfl
@[simp] theorem shiftBit_tempRaw (s : State) (b : Level) : (s.shiftBit b).tempRaw = s.tempRaw := rfl
@[simp] theorem shiftBit_params (s : State) (b : Level) : (s.shiftBit b).params = s.params := rfl
@[simp] theorem shiftBit_pins (s : State) (b : Level) : (s.shiftBit b).pins = s.pins := rfl
@[simp] theorem shiftBit_schedule (s : State) (b : Level) : (s.shiftBit b).schedule = s.schedule := rfl
@[simp] theorem shiftBit_tick (s : State) (b : Level) : (s.shiftBit b).tick = s.tick := rfl

/-! ### the store of a byte -/

@[simp] theorem storeByte_phase (s : State) : (s.storeByte).phase = s.phase := rfl
@[simp] theorem storeByte_cnt (s : State) : (s.storeByte).cnt = s.cnt := rfl
@[simp] theorem storeByte_byteIdx (s : State) : (s.storeByte).byteIdx = s.byteIdx := rfl
@[simp] theorem storeByte_bitCnt (s : State) : (s.storeByte).bitCnt = 0 := rfl
@[simp] theorem storeByte_sh (s : State) : (s.storeByte).sh = s.sh := rfl
@[simp] theorem storeByte_frame (s : State) : (s.storeByte).frame = writeByte s.frame s.byteIdx s.sh := rfl
@[simp] theorem storeByte_variantQ (s : State) : (s.storeByte).variantQ = s.variantQ := rfl
@[simp] theorem storeByte_respOk (s : State) : (s.storeByte).respOk = s.respOk := rfl
@[simp] theorem storeByte_done (s : State) : (s.storeByte).done = s.done := rfl
@[simp] theorem storeByte_status (s : State) : (s.storeByte).status = s.status := rfl
@[simp] theorem storeByte_readingValid (s : State) : (s.storeByte).readingValid = s.readingValid := rfl
@[simp] theorem storeByte_humRaw (s : State) : (s.storeByte).humRaw = s.humRaw := rfl
@[simp] theorem storeByte_tempRaw (s : State) : (s.storeByte).tempRaw = s.tempRaw := rfl
@[simp] theorem storeByte_params (s : State) : (s.storeByte).params = s.params := rfl
@[simp] theorem storeByte_pins (s : State) : (s.storeByte).pins = s.pins := rfl
@[simp] theorem storeByte_schedule (s : State) : (s.storeByte).schedule = s.schedule := rfl
@[simp] theorem storeByte_tick (s : State) : (s.storeByte).tick = s.tick := rfl

/-! ### the store of the Reading -/

@[simp] theorem storeReading_phase (s : State) : (s.storeReading).phase = s.phase := rfl
@[simp] theorem storeReading_cnt (s : State) : (s.storeReading).cnt = s.cnt := rfl
@[simp] theorem storeReading_byteIdx (s : State) : (s.storeReading).byteIdx = s.byteIdx := rfl
@[simp] theorem storeReading_bitCnt (s : State) : (s.storeReading).bitCnt = s.bitCnt := rfl
@[simp] theorem storeReading_sh (s : State) : (s.storeReading).sh = s.sh := rfl
@[simp] theorem storeReading_frame (s : State) : (s.storeReading).frame = s.frame := rfl
@[simp] theorem storeReading_variantQ (s : State) : (s.storeReading).variantQ = s.variantQ := rfl
@[simp] theorem storeReading_respOk (s : State) : (s.storeReading).respOk = s.respOk := rfl
@[simp] theorem storeReading_done (s : State) : (s.storeReading).done = s.done := rfl
@[simp] theorem storeReading_status (s : State) : (s.storeReading).status = s.status := rfl
@[simp] theorem storeReading_readingValid (s : State) : (s.storeReading).readingValid = true := rfl
@[simp] theorem storeReading_humRaw (s : State) : (s.storeReading).humRaw = humidityOf s.frame := rfl
@[simp] theorem storeReading_tempRaw (s : State) : (s.storeReading).tempRaw = temperatureOf s.frame := rfl
@[simp] theorem storeReading_params (s : State) : (s.storeReading).params = s.params := rfl
@[simp] theorem storeReading_pins (s : State) : (s.storeReading).pins = s.pins := rfl
@[simp] theorem storeReading_schedule (s : State) : (s.storeReading).schedule = s.schedule := rfl
@[simp] theorem storeReading_tick (s : State) : (s.storeReading).tick = s.tick := rfl

/-! ### reset -/

@[simp] theorem resetBlock_phase (s : State) : (s.resetBlock).phase = State.reset.phase := rfl
@[simp] theorem resetBlock_cnt (s : State) : (s.resetBlock).cnt = State.reset.cnt := rfl
@[simp] theorem resetBlock_byteIdx (s : State) : (s.resetBlock).byteIdx = State.reset.byteIdx := rfl
@[simp] theorem resetBlock_bitCnt (s : State) : (s.resetBlock).bitCnt = State.reset.bitCnt := rfl
@[simp] theorem resetBlock_sh (s : State) : (s.resetBlock).sh = State.reset.sh := rfl
@[simp] theorem resetBlock_frame (s : State) : (s.resetBlock).frame = State.reset.frame := rfl
@[simp] theorem resetBlock_variantQ (s : State) : (s.resetBlock).variantQ = State.reset.variantQ := rfl
@[simp] theorem resetBlock_respOk (s : State) : (s.resetBlock).respOk = State.reset.respOk := rfl
@[simp] theorem resetBlock_done (s : State) : (s.resetBlock).done = State.reset.done := rfl
@[simp] theorem resetBlock_status (s : State) : (s.resetBlock).status = State.reset.status := rfl
@[simp] theorem resetBlock_readingValid (s : State) : (s.resetBlock).readingValid = State.reset.readingValid := rfl
@[simp] theorem resetBlock_humRaw (s : State) : (s.resetBlock).humRaw = State.reset.humRaw := rfl
@[simp] theorem resetBlock_tempRaw (s : State) : (s.resetBlock).tempRaw = State.reset.tempRaw := rfl
@[simp] theorem resetBlock_params (s : State) : (s.resetBlock).params = s.params := rfl
@[simp] theorem resetBlock_pins (s : State) : (s.resetBlock).pins = s.pins := rfl
@[simp] theorem resetBlock_schedule (s : State) : (s.resetBlock).schedule = s.schedule := rfl
@[simp] theorem resetBlock_tick (s : State) : (s.resetBlock).tick = s.tick := rfl

/-! ### the passing of a tick -/

@[simp] theorem nextTick_phase (s : State) : s.nextTick.phase = s.phase := by
  unfold State.nextTick; split <;> rfl
@[simp] theorem nextTick_cnt (s : State) : s.nextTick.cnt = s.cnt := by
  unfold State.nextTick; split <;> rfl
@[simp] theorem nextTick_byteIdx (s : State) : s.nextTick.byteIdx = s.byteIdx := by
  unfold State.nextTick; split <;> rfl
@[simp] theorem nextTick_bitCnt (s : State) : s.nextTick.bitCnt = s.bitCnt := by
  unfold State.nextTick; split <;> rfl
@[simp] theorem nextTick_sh (s : State) : s.nextTick.sh = s.sh := by
  unfold State.nextTick; split <;> rfl
@[simp] theorem nextTick_frame (s : State) : s.nextTick.frame = s.frame := by
  unfold State.nextTick; split <;> rfl
@[simp] theorem nextTick_variantQ (s : State) : s.nextTick.variantQ = s.variantQ := by
  unfold State.nextTick; split <;> rfl
@[simp] theorem nextTick_respOk (s : State) : s.nextTick.respOk = s.respOk := by
  unfold State.nextTick; split <;> rfl
@[simp] theorem nextTick_done (s : State) : s.nextTick.done = s.done := by
  unfold State.nextTick; split <;> rfl
@[simp] theorem nextTick_status (s : State) : s.nextTick.status = s.status := by
  unfold State.nextTick; split <;> rfl
@[simp] theorem nextTick_readingValid (s : State) : s.nextTick.readingValid = s.readingValid := by
  unfold State.nextTick; split <;> rfl
@[simp] theorem nextTick_humRaw (s : State) : s.nextTick.humRaw = s.humRaw := by
  unfold State.nextTick; split <;> rfl
@[simp] theorem nextTick_tempRaw (s : State) : s.nextTick.tempRaw = s.tempRaw := by
  unfold State.nextTick; split <;> rfl
@[simp] theorem nextTick_params (s : State) : s.nextTick.params = s.params := by
  unfold State.nextTick; split <;> rfl
@[simp] theorem nextTick_tick (s : State) : s.nextTick.tick = s.tick + 1 := by
  unfold State.nextTick; split <;> rfl
@[simp] theorem nextTick_schedule (s : State) : s.nextTick.schedule = s.schedule.tail := by
  unfold State.nextTick; split <;> simp_all
theorem nextTick_pins_scheduled (s : State) (p : Pins) (ps : List Pins) (h : s.schedule = p :: ps) :
    s.nextTick.pins = p := by
  unfold State.nextTick; split <;> simp_all
theorem nextTick_pins_free (s : State) (h : s.schedule = []) :
    s.nextTick.pins = Config.freePins (s.tick + 1) := by
  unfold State.nextTick; split <;> simp_all

end Sys2Proof.Machine
end

