-- ==== Sys2Proof/Laws/Step.lean ====
section
/-! SUPPORT. What the fetch and a step can do, said once: the step at each phase is one equation. -/

namespace Sys2Proof.Machine

/-- The code of a phase decodes to the operation that the phase names. -/
theorem decode_phase_code (p : Phase) : decode .ph p.code.toNat = .ok p.instr := by
  cases p <;> rfl

@[simp] theorem fetch_eq (s : State) : fetch s = .ok s.phase.instr := decode_phase_code s.phase

@[simp] theorem finishTick_next (s : State) : finishTick (.next s) = .next s.nextTick := rfl

/-- Reset on top: whatever the state, a tick with `rst = 1` leads to the reset block. -/
theorem step_reset (s : State) (h : s.pins.rst = true) : step s = .next s.resetBlock.nextTick := by
  simp [step, tickWith, h]

/-- Without reset a step is the operation of the phase, and then the tick passes. -/
theorem step_runs_phase (s : State) (h : s.pins.rst = false) : step s = finishTick (exec s.phase.instr s) := by
  simp [step, tickWith, h]

section Phases
variable (s : State) (hr : s.pins.rst = false)
include hr

theorem step_idle_nop (h : s.phase = .idle) (hs : s.pins.start = false) :
    step s = .next s.clearDone.nextTick := by
  rw [step_runs_phase s hr]
  simp [h, Phase.instr, exec, execIdle, commandWord, decodeCommand, hs, execNop, BitVec.ofBool, Variant.bit]
  cases s.pins.variant <;> simp [h, State.clearDone]

theorem step_idle_read (h : s.phase = .idle) (hs : s.pins.start = true) :
    step s = .next (s.acceptRead s.pins.variant).nextTick := by
  rw [step_runs_phase s hr]
  cases hv : s.pins.variant <;>
    simp [h, Phase.instr, exec, execIdle, commandWord, decodeCommand, hs, hv, execReadA, execReadB, BitVec.ofBool,
      Variant.bit, State.acceptRead, State.clearDone]

theorem step_hsLow (h : s.phase = .hsLow) :
    step s = .next (if s.cnt + 1 = holdTime s.params s.variantQ then s.goto .hsHigh else s.stay).nextTick := by
  simp [step_runs_phase s hr, h, Phase.instr, exec, execHsLow, lastTickOf]

theorem step_hsHigh (h : s.phase = .hsHigh) :
    step s = .next (if s.cnt + 1 = s.params.tReady then s.goto .hsWait1 else s.stay).nextTick := by
  simp [step_runs_phase s hr, h, Phase.instr, exec, execHsHigh, lastTickOf]

theorem step_hsWait1 (h : s.phase = .hsWait1) :
    step s = .next
      (if s.cnt = s.params.tAck1 then
        (if s.pins.lineIn = .high then (s.setResponse .failure).goto .hsRelease else s.goto .hsWait2)
      else s.stay).nextTick := by
  cases hl : s.pins.lineIn <;>
    simp [step_runs_phase s hr, h, Phase.instr, exec, execHsWait1, elapsed, lineSample, hl]

theorem step_hsWait2 (h : s.phase = .hsWait2) :
    step s = .next
      (if s.cnt + 1 = s.params.tAck2 then (s.setResponse (responseOf s.pins.lineIn)).goto .hsRelease
      else s.stay).nextTick := by
  simp [step_runs_phase s hr, h, Phase.instr, exec, execHsWait2, lastTickOf, lineSample]

theorem step_hsRelease (h : s.phase = .hsRelease) :
    step s = .next
      (if s.pins.lineIn = .low then
        (if s.respOk = .success then s.goto .bitWaitHigh else s.complete .noResponse)
      else if s.cnt + 1 = s.params.tTimeout then
        (if s.respOk = .success then s.complete .timeout else s.complete .noResponse)
      else s.stay).nextTick := by
  cases hl : s.pins.lineIn <;> cases hk : s.respOk <;>
    simp [step_runs_phase s hr, h, Phase.instr, exec, execHsRelease, lastTickOf, lineSample, hl, hk]

theorem step_bitWaitHigh (h : s.phase = .bitWaitHigh) :
    step s = .next
      (if s.pins.lineIn = .high then s.goto .bitDelay
      else if s.cnt + 1 = s.params.tTimeout then s.complete .timeout else s.stay).nextTick := by
  cases hl : s.pins.lineIn <;>
    simp [step_runs_phase s hr, h, Phase.instr, exec, execBitWaitHigh, lastTickOf, lineSample, hl]

theorem step_bitDelay (h : s.phase = .bitDelay) :
    step s = .next
      (if s.cnt + 1 = s.params.tBit then (s.shiftBit s.pins.lineIn).goto .bitWaitLow else s.stay).nextTick := by
  simp [step_runs_phase s hr, h, Phase.instr, exec, execBitDelay, lastTickOf, lineSample]

theorem step_bitWaitLow (h : s.phase = .bitWaitLow) :
    step s = .next
      (if s.pins.lineIn = .low then s.bitComplete
      else if s.cnt + 1 = s.params.tTimeout then s.complete .timeout else s.stay).nextTick := by
  cases hl : s.pins.lineIn <;>
    simp [step_runs_phase s hr, h, Phase.instr, exec, execBitWaitLow, lastTickOf, lineSample, hl]

theorem step_validate (h : s.phase = .validate) :
    step s = .next
      (if frameValid s.frame = true then s.storeReading.complete .ok else s.complete .checksumMismatch).nextTick := by
  simp [step_runs_phase s hr, h, Phase.instr, exec, execValidate]

end Phases

/-- What `BIT_WAIT_LOW` does on a Low, by the three cases of the position. -/
theorem bitComplete_cases (s : State) :
    (s.bitCnt ≠ 7 ∧ s.bitComplete = { s with bitCnt := s.bitCnt + 1, phase := .bitWaitHigh, cnt := 0 }) ∨
    (s.bitCnt = 7 ∧ s.byteIdx ≠ 4 ∧ s.bitComplete =
      { s with frame := writeByte s.frame s.byteIdx s.sh, bitCnt := 0, byteIdx := s.byteIdx + 1,
               phase := .bitWaitHigh, cnt := 0 }) ∨
    (s.bitCnt = 7 ∧ s.byteIdx = 4 ∧ s.bitComplete =
      { s with frame := writeByte s.frame s.byteIdx s.sh, bitCnt := 0, phase := .validate, cnt := 0 }) := by
  by_cases h7 : s.bitCnt = 7 <;> by_cases h4 : s.byteIdx = 4 <;>
    simp [State.bitComplete, State.storeByte, State.goto, h7, h4]

/-- A next state is one state. -/
theorem next_injective {a b : State} (h : (Host.Outcome.next a : Host.Outcome State Fault Refusal) = .next b) : a = b := by
  cases h; rfl

/-- Everything a step without reset can do: one case per branch of a phase operation. The tick then passes. -/
theorem step_cases {s t : State} (hr : s.pins.rst = false) (h : step s = .next t) :
   ∃ x : State, t = x.nextTick ∧ (
    (s.phase = .idle ∧ s.pins.start = false ∧ x = s.clearDone) ∨
    (s.phase = .idle ∧ s.pins.start = true ∧ x = s.acceptRead s.pins.variant) ∨
    (s.phase = .hsLow ∧ s.cnt + 1 = holdTime s.params s.variantQ ∧ x = s.goto .hsHigh) ∨
    (s.phase = .hsLow ∧ s.cnt + 1 ≠ holdTime s.params s.variantQ ∧ x = s.stay) ∨
    (s.phase = .hsHigh ∧ s.cnt + 1 = s.params.tReady ∧ x = s.goto .hsWait1) ∨
    (s.phase = .hsHigh ∧ s.cnt + 1 ≠ s.params.tReady ∧ x = s.stay) ∨
    (s.phase = .hsWait1 ∧ s.cnt = s.params.tAck1 ∧ s.pins.lineIn = .high ∧ x = (s.setResponse .failure).goto .hsRelease) ∨
    (s.phase = .hsWait1 ∧ s.cnt = s.params.tAck1 ∧ s.pins.lineIn = .low ∧ x = s.goto .hsWait2) ∨
    (s.phase = .hsWait1 ∧ s.cnt ≠ s.params.tAck1 ∧ x = s.stay) ∨
    (s.phase = .hsWait2 ∧ s.cnt + 1 = s.params.tAck2 ∧ x = (s.setResponse (responseOf s.pins.lineIn)).goto .hsRelease) ∨
    (s.phase = .hsWait2 ∧ s.cnt + 1 ≠ s.params.tAck2 ∧ x = s.stay) ∨
    (s.phase = .hsRelease ∧ s.pins.lineIn = .low ∧ s.respOk = .success ∧ x = s.goto .bitWaitHigh) ∨
    (s.phase = .hsRelease ∧ s.pins.lineIn = .low ∧ s.respOk = .failure ∧ x = s.complete .noResponse) ∨
    (s.phase = .hsRelease ∧ s.pins.lineIn = .high ∧ s.cnt + 1 = s.params.tTimeout ∧ s.respOk = .success ∧ x = s.complete .timeout) ∨
    (s.phase = .hsRelease ∧ s.pins.lineIn = .high ∧ s.cnt + 1 = s.params.tTimeout ∧ s.respOk = .failure ∧ x = s.complete .noResponse) ∨
    (s.phase = .hsRelease ∧ s.pins.lineIn = .high ∧ s.cnt + 1 ≠ s.params.tTimeout ∧ x = s.stay) ∨
    (s.phase = .bitWaitHigh ∧ s.pins.lineIn = .high ∧ x = s.goto .bitDelay) ∨
    (s.phase = .bitWaitHigh ∧ s.pins.lineIn = .low ∧ s.cnt + 1 = s.params.tTimeout ∧ x = s.complete .timeout) ∨
    (s.phase = .bitWaitHigh ∧ s.pins.lineIn = .low ∧ s.cnt + 1 ≠ s.params.tTimeout ∧ x = s.stay) ∨
    (s.phase = .bitDelay ∧ s.cnt + 1 = s.params.tBit ∧ x = (s.shiftBit s.pins.lineIn).goto .bitWaitLow) ∨
    (s.phase = .bitDelay ∧ s.cnt + 1 ≠ s.params.tBit ∧ x = s.stay) ∨
    (s.phase = .bitWaitLow ∧ s.pins.lineIn = .low ∧ s.bitCnt ≠ 7 ∧ x = ({ s with bitCnt := s.bitCnt + 1, phase := .bitWaitHigh, cnt := 0 })) ∨
    (s.phase = .bitWaitLow ∧ s.pins.lineIn = .low ∧ s.bitCnt = 7 ∧ s.byteIdx ≠ 4 ∧ x =
      { s with frame := writeByte s.frame s.byteIdx s.sh, bitCnt := 0, byteIdx := s.byteIdx + 1, phase := .bitWaitHigh, cnt := 0 }) ∨
    (s.phase = .bitWaitLow ∧ s.pins.lineIn = .low ∧ s.bitCnt = 7 ∧ s.byteIdx = 4 ∧ x =
      { s with frame := writeByte s.frame s.byteIdx s.sh, bitCnt := 0, phase := .validate, cnt := 0 }) ∨
    (s.phase = .bitWaitLow ∧ s.pins.lineIn = .high ∧ s.cnt + 1 = s.params.tTimeout ∧ x = s.complete .timeout) ∨
    (s.phase = .bitWaitLow ∧ s.pins.lineIn = .high ∧ s.cnt + 1 ≠ s.params.tTimeout ∧ x = s.stay) ∨
    (s.phase = .validate ∧ frameValid s.frame = true ∧ x = s.storeReading.complete .ok) ∨
    (s.phase = .validate ∧ frameValid s.frame = false ∧ x = s.complete .checksumMismatch)) := by
  have lv : s.pins.lineIn = .low ∨ s.pins.lineIn = .high := by cases s.pins.lineIn <;> simp
  have rv : s.respOk = .success ∨ s.respOk = .failure := by cases s.respOk <;> simp
  obtain ⟨p, hp⟩ : ∃ p, s.phase = p := ⟨_, rfl⟩
  cases p
  case idle =>
    cases hs : s.pins.start
    · rw [step_idle_nop s hr hp hs] at h; exact ⟨_, (next_injective h).symm, by simp [hp]⟩
    · rw [step_idle_read s hr hp hs] at h; exact ⟨_, (next_injective h).symm, by simp [hp]⟩
  case hsLow => rw [step_hsLow s hr hp] at h; refine ⟨_, (next_injective h).symm, ?_⟩; split_ifs <;> simp_all
  case hsHigh => rw [step_hsHigh s hr hp] at h; refine ⟨_, (next_injective h).symm, ?_⟩; split_ifs <;> simp_all
  case hsWait1 => rw [step_hsWait1 s hr hp] at h; refine ⟨_, (next_injective h).symm, ?_⟩; rcases lv with lv | lv <;> split_ifs <;> simp_all
  case hsWait2 => rw [step_hsWait2 s hr hp] at h; refine ⟨_, (next_injective h).symm, ?_⟩; split_ifs <;> simp_all
  case hsRelease => rw [step_hsRelease s hr hp] at h; refine ⟨_, (next_injective h).symm, ?_⟩; rcases lv with lv | lv <;> rcases rv with rv | rv <;> split_ifs <;> simp_all
  case bitWaitHigh => rw [step_bitWaitHigh s hr hp] at h; refine ⟨_, (next_injective h).symm, ?_⟩; rcases lv with lv | lv <;> split_ifs <;> simp_all
  case bitDelay => rw [step_bitDelay s hr hp] at h; refine ⟨_, (next_injective h).symm, ?_⟩; split_ifs <;> simp_all
  case bitWaitLow =>
    rw [step_bitWaitLow s hr hp] at h; refine ⟨_, (next_injective h).symm, ?_⟩
    rcases lv with lv | lv
    · simp only [lv, if_true]
      rcases bitComplete_cases s with ⟨a, e⟩ | ⟨a, b, e⟩ | ⟨a, b, e⟩ <;> rw [e] <;> simp [*]
    · split_ifs <;> simp_all
  case validate => rw [step_validate s hr hp] at h; refine ⟨_, (next_injective h).symm, ?_⟩; split_ifs <;> simp_all

end Sys2Proof.Machine
end

