-- ==== Sys2Proof/Laws/Run.lean ====
section
/-! SUPPORT. Runs and the inputs they hear: one tick at the head of a run, two runs end to end, and a phase that stays
for as long as its condition lasts. -/

namespace Sys2Proof.Machine

theorem runsTo_zero (s : State) : RunsTo 0 s s := rfl

theorem runsTo_succ {n : Nat} {s u t : State} (h : step s = .next u) (hr : RunsTo n u t) : RunsTo (n + 1) s t := by
  simpa [RunsTo, Host.Core.run, Sys2Proof.core, h] using hr

theorem runsTo_one {s u : State} (h : step s = .next u) : RunsTo 1 s u := runsTo_succ h (runsTo_zero u)

/-- Two runs, one after the other. -/
theorem runsTo_add {m n : Nat} {s u t : State} (h1 : RunsTo m s u) (h2 : RunsTo n u t) : RunsTo (m + n) s t := by
  induction m generalizing s with
  | zero =>
    cases (Host.Outcome.next.inj h1 : s = u); simpa using h2
  | succ m ih =>
    cases hs : step s with
    | next v =>
      have h1' : RunsTo m v u := by simpa [RunsTo, Host.Core.run, Sys2Proof.core, hs] using h1
      have := runsTo_succ hs (ih h1')
      rwa [Nat.add_right_comm] at this
    | fault r => simp [RunsTo, Host.Core.run, Sys2Proof.core, hs] at h1
    | refused r => simp [RunsTo, Host.Core.run, Sys2Proof.core, hs] at h1

/-- A run ends in one state only. -/
theorem runsTo_unique {n : Nat} {s t u : State} (h1 : RunsTo n s t) (h2 : RunsTo n s u) : t = u := by
  unfold RunsTo at h1 h2; rw [h1] at h2; cases h2; rfl

/-- The first tick of what a state hears, and what the state after that tick hears. -/
theorem hears_cons {s : State} {l : Level} {ls : List Level} (h : s.hears (l :: ls)) :
    s.pins.rst = false ∧ s.pins.lineIn = l ∧
      ∀ x : State, x.schedule = s.schedule → x.nextTick.hears ls := by
  unfold State.hears State.upcoming at h
  rw [List.map_cons, List.map_cons, List.cons_prefix_cons, Prod.mk.injEq] at h
  obtain ⟨⟨h1, h2⟩, h3⟩ := h
  refine ⟨h1.symm, h2.symm, fun x hx => ?_⟩
  unfold State.hears State.upcoming
  cases hsch : s.schedule with
  | nil =>
    have : ls = [] := by simpa [hsch] using h3
    simp [this]
  | cons p ps =>
    rw [nextTick_pins_scheduled x p ps (hx.trans hsch), nextTick_schedule, hx]
    simpa [hsch] using h3

/-- What is heard at least so long is heard for a shorter time. -/
theorem hears_prefix {s : State} {a b : List Level} (h : s.hears (a ++ b)) : s.hears a := by
  unfold State.hears at *
  rw [List.map_append] at h
  exact (List.prefix_append _ _).trans h

/-- A time without reset is a time in which some line is heard. -/
theorem noReset_hears {s : State} {n : Nat} (h : s.noReset n) : ∃ ls : List Level, ls.length = n ∧ s.hears ls := by
  obtain ⟨rest, hr⟩ := h
  have hlen : n ≤ s.upcoming.length := by
    have := congrArg List.length hr
    simp at this; omega
  refine ⟨(s.upcoming.take n).map Pins.lineIn, by simp [hlen], ?_⟩
  have key : (s.upcoming.take n).map Pins.rst = List.replicate n false := by
    rw [List.map_take, ← hr]; simp
  unfold State.hears
  have : ((s.upcoming.take n).map Pins.lineIn).map (fun l => (false, l)) =
      (s.upcoming.take n).map (fun p => (p.rst, p.lineIn)) := by
    rw [List.map_map]
    apply List.map_congr_left
    intro p hp
    have : p.rst ∈ (s.upcoming.take n).map Pins.rst := List.mem_map_of_mem hp
    rw [key] at this
    simp [List.eq_of_mem_replicate this]
  rw [this]
  exact (List.take_prefix n _).map _

/-- Two states with equal blocks agree on every element of `S_t` and on the parameters. -/
theorem block_eq_iff (s t : State) : s.block = t.block ↔
    s.phase = t.phase ∧ s.cnt = t.cnt ∧ s.byteIdx = t.byteIdx ∧ s.bitCnt = t.bitCnt ∧ s.sh = t.sh ∧
    s.frame = t.frame ∧ s.variantQ = t.variantQ ∧ s.respOk = t.respOk ∧ s.done = t.done ∧ s.status = t.status ∧
    s.readingValid = t.readingValid ∧ s.humRaw = t.humRaw ∧ s.tempRaw = t.tempRaw ∧ s.params = t.params := by
  cases s; cases t; simp [State.block]

@[simp] theorem block_nextTick (s : State) : s.nextTick.block = s.block := by
  rw [block_eq_iff]; simp

/-- A phase that stays on every tick of a stretch of line counts those ticks and changes nothing else. -/
theorem stays_while {s : State} (ls rest : List Level) (hs : s.hears (ls ++ rest))
    (hstay : ∀ (k : Nat) (l : Level) (u : State), ls[k]? = some l → u.block = ({ s with cnt := s.cnt + k } : State).block →
      u.pins.rst = false → u.pins.lineIn = l → step u = .next u.stay.nextTick) :
    ∀ k ≤ ls.length, ∃ u, RunsTo k s u ∧ u.block = ({ s with cnt := s.cnt + k } : State).block ∧
      u.hears (ls.drop k ++ rest) := by
  intro k
  induction k with
  | zero => intro _; exact ⟨s, runsTo_zero s, rfl, by simpa using hs⟩
  | succ k ih =>
    intro hk
    obtain ⟨u, hr, hb, hh⟩ := ih (by omega)
    have hk' : k < ls.length := by omega
    rw [List.drop_eq_getElem_cons hk', List.cons_append] at hh
    obtain ⟨h1, h2, h3⟩ := hears_cons hh
    have hst := hstay k ls[k] u (by simp [hk']) hb h1 h2
    refine ⟨u.stay.nextTick, runsTo_add hr (runsTo_one hst), ?_, h3 _ rfl⟩
    rw [block_nextTick]
    rw [block_eq_iff] at hb ⊢
    simp only [stay_phase] at hb ⊢
    refine ⟨hb.1, ?_, hb.2.2⟩
    have := hb.2.1
    simp only [stay_cnt] at this ⊢
    omega

end Sys2Proof.Machine
end

