-- ==== Sys2Proof/Tests/Slice0.lean ====
section
/-! SUPPORT. Tests: what WellFormed refuses, the decoding of words written out from spec/30_encoding.md, single ticks
from the vectors of spec/95_test_vectors.md (the vector's name stands at each test), and for every statement that has
hypotheses a concrete state that meets them. -/

namespace Sys2Proof.Tests

open Sys2Proof Sys2Proof.Machine

/-! ### WellFormed: every check refuses an ill-formed instance (R173) -/

theorem test_wf_this_hardware : Params.thisHardware.wf = true ∧ Params.thisHardware.practicalHoldB = true := by decide
theorem test_wf_zero_duration :
    { Params.thisHardware with tTimeout := 0 }.fitCounter = false ∧
    { Params.thisHardware with tTimeout := 0 }.positive = false ∧
    { Params.thisHardware with tTimeout := 0 }.wf = false := by decide
theorem test_wf_duration_past_sixteen_bits :
    { Params.thisHardware with tTimeout := 65536 }.fitCounter = false ∧
    { Params.thisHardware with tTimeout := 65535 }.fitCounter = true := by decide
theorem test_wf_undocumented_delay :
    { Params.thisHardware with tBit := 41 }.documented = false ∧ { Params.thisHardware with tBit := 41 }.wf = false := by
  decide
theorem test_wf_short_hold :
    { Params.thisHardware with tHoldB := 999 }.holdBFloor = false ∧
    { Params.thisHardware with tHoldB := 1000 }.wf = true := by decide
theorem test_wf_impractical_hold :
    { Params.thisHardware with tHoldB := 1199 }.practicalHoldB = false ∧
    { Params.thisHardware with tHoldB := 1501 }.practicalHoldB = false := by decide
theorem test_wf_short_timeout :
    { Params.thisHardware with tTimeout := 80 }.timeoutFloor = false ∧
    { Params.thisHardware with tTimeout := 81 }.wf = true := by decide

/-! ### Decoding, from the tables of R61 and R62 -/

theorem test_decode_nop : decode .cmd 0b00 = .ok .nop ∧ decode .cmd 0b01 = .ok .nop := ⟨rfl, rfl⟩
theorem test_decode_readA : decode .cmd 0b10 = .ok .readA ∧ decodeTableWord 2 0b10 = some .readA := ⟨rfl, rfl⟩
theorem test_decode_readB : decode .cmd 0b11 = .ok .readB ∧ decodeTableWord 2 0b11 = some .readB := ⟨rfl, rfl⟩
theorem test_decode_idle : decode .ph 0b0000 = .ok .idle := rfl
theorem test_decode_hsLow : decode .ph 0b0001 = .ok .hsLow := rfl
theorem test_decode_hsHigh : decode .ph 0b0010 = .ok .hsHigh := rfl
theorem test_decode_hsWait1 : decode .ph 0b0011 = .ok .hsWait1 := rfl
theorem test_decode_hsWait2 : decode .ph 0b0100 = .ok .hsWait2 := rfl
theorem test_decode_hsRelease : decode .ph 0b0101 = .ok .hsRelease := rfl
theorem test_decode_bitWaitHigh : decode .ph 0b0110 = .ok .bitWaitHigh := rfl
theorem test_decode_bitDelay : decode .ph 0b0111 = .ok .bitDelay := rfl
theorem test_decode_bitWaitLow : decode .ph 0b1000 = .ok .bitWaitLow := rfl
theorem test_decode_validate : decode .ph 0b1001 = .ok .validate ∧ decodeTableWord 4 0b1001 = some .validate := ⟨rfl, rfl⟩
theorem test_decode_reserved_phase :
    decode .ph 0b1010 = .error (.reservedPhaseCode 0b1010) ∧ decode .ph 0b1111 = .error (.reservedPhaseCode 0b1111) ∧
    decodeTableWord 4 0b1010 = none := ⟨rfl, rfl, rfl⟩
theorem test_decode_too_wide : decode .cmd 0b100 = .error (.wordTooWide 4) ∧ decode .ph 16 = .error (.wordTooWide 16) :=
  ⟨rfl, rfl⟩
/-- The frame of P1: the FRAME word `0x320015054C` is the five bytes `32 00 15 05 4C` (95_test_vectors.md, section 0). -/
theorem test_frame_word : RawFrame.ofWord 0x320015054C = ⟨0x32, 0x00, 0x15, 0x05, 0x4C⟩ := by decide

/-! ### Single ticks, from the vectors -/

/-- A state in a phase, every other element at its reset value, the line at a level. -/
def at_ (p : Phase) (cnt : Nat) (l : Level) : State :=
  { State.reset with phase := p, cnt := cnt, variantQ := .variantB, pins := { quietPins with lineIn := l } }

/-- The inputs of a command at this tick. -/
def commanding (v : Variant) (s : State) : State := { s with pins := { s.pins with start := true, variant := v } }

/-- V-CMD-2. -/
theorem test_nop_clears_done :
    exec .nop { State.reset with done := true, status := .ok, readingValid := true, humRaw := 500, tempRaw := 215 } =
      .next { State.reset with status := .ok, readingValid := true, humRaw := 500, tempRaw := 215 } := rfl
/-- V-CMD-4, through a step. -/
theorem test_readA_from_reset : ∃ t, step (commanding .variantA State.reset) = .next t ∧
    t.block = { State.reset with phase := .hsLow } := ⟨_, rfl, rfl⟩
/-- V-CMD-3. -/
theorem test_readB_clears_the_transients :
    exec .readB
      { State.reset with
        done := true, status := .checksumMismatch, respOk := .success, byteIdx := 4, sh := 0x4D
        frame := ⟨0x32, 0x00, 0x15, 0x05, 0x4D⟩, readingValid := true, humRaw := 500, tempRaw := 215 } =
      .next
      { State.reset with
        phase := .hsLow, variantQ := .variantB, status := .checksumMismatch, readingValid := true
        humRaw := 500, tempRaw := 215 } := rfl
/-- V-CMD-5: a command while the block is busy. -/
theorem test_busy_ignores_command :
    exec .bitDelay (commanding .variantA { at_ .bitDelay 10 .high with sh := 0x03, bitCnt := 4 }) =
      .next (commanding .variantA { at_ .bitDelay 11 .high with sh := 0x03, bitCnt := 4 }) := rfl
/-- V-CMD-7: reset beats a command. -/
theorem test_reset_beats_command :
    ∃ t, step { State.reset with pins := ⟨true, true, .variantB, .high⟩, done := true, humRaw := 9 } = .next t ∧
      t.block = State.reset.block := ⟨_, rfl, rfl⟩
/-- V-HS-1, V-HS-2. -/
theorem test_hsLow_last_tick :
    exec .hsLow (at_ .hsLow 1198 .low) = .next (at_ .hsLow 1199 .low) ∧
    exec .hsLow (at_ .hsLow 1199 .low) = .next (at_ .hsHigh 0 .low) := ⟨rfl, rfl⟩
/-- V-HS-3, V-HS-4: VariantA holds for 18000 ticks. -/
theorem test_hsLow_variantA :
    exec .hsLow { at_ .hsLow 1199 .low with variantQ := .variantA } =
      .next { at_ .hsLow 1200 .low with variantQ := .variantA } ∧
    exec .hsLow { at_ .hsLow 17999 .low with variantQ := .variantA } =
      .next { at_ .hsHigh 0 .low with variantQ := .variantA } := ⟨rfl, rfl⟩
/-- V-HS-5, V-HS-6. -/
theorem test_hsHigh_last_tick :
    exec .hsHigh (at_ .hsHigh 18 .low) = .next (at_ .hsHigh 19 .low) ∧
    exec .hsHigh (at_ .hsHigh 19 .low) = .next (at_ .hsWait1 0 .low) := ⟨rfl, rfl⟩
/-- V-HS-7, V-HS-8, V-HS-9. -/
theorem test_hsWait1_sample :
    exec .hsWait1 (at_ .hsWait1 39 .high) = .next (at_ .hsWait1 40 .high) ∧
    exec .hsWait1 { at_ .hsWait1 40 .high with respOk := .success } = .next (at_ .hsRelease 0 .high) ∧
    exec .hsWait1 (at_ .hsWait1 40 .low) = .next (at_ .hsWait2 0 .low) := ⟨rfl, rfl, rfl⟩
/-- V-HS-10, V-HS-11, V-HS-12. -/
theorem test_hsWait2_sample :
    exec .hsWait2 (at_ .hsWait2 78 .high) = .next (at_ .hsWait2 79 .high) ∧
    exec .hsWait2 (at_ .hsWait2 79 .high) = .next { at_ .hsRelease 0 .high with respOk := .success } ∧
    exec .hsWait2 (at_ .hsWait2 79 .low) = .next (at_ .hsRelease 0 .low) := ⟨rfl, rfl, rfl⟩
/-- V-HS-16, V-HS-17, V-HS-18: the three outcomes on the last tick. -/
theorem test_hsRelease_last_tick :
    exec .hsRelease { at_ .hsRelease 999 .high with respOk := .success } =
      .next { at_ .idle 0 .high with respOk := .success, done := true, status := .timeout } ∧
    exec .hsRelease (at_ .hsRelease 999 .high) = .next { at_ .idle 0 .high with done := true, status := .noResponse } ∧
    exec .hsRelease { at_ .hsRelease 999 .low with respOk := .success } =
      .next { at_ .bitWaitHigh 0 .low with respOk := .success } := ⟨rfl, rfl, rfl⟩
/-- V-DEC-2, V-DEC-3, V-DEC-4. -/
theorem test_bitWaitHigh_wait_and_last_tick :
    exec .bitWaitHigh (at_ .bitWaitHigh 49 .low) = .next (at_ .bitWaitHigh 50 .low) ∧
    exec .bitWaitHigh (at_ .bitWaitHigh 999 .low) = .next { at_ .idle 0 .low with done := true, status := .timeout } ∧
    exec .bitWaitHigh (at_ .bitWaitHigh 999 .high) = .next (at_ .bitDelay 0 .high) := ⟨rfl, rfl, rfl⟩
/-- V-DEC-6, V-DEC-7. -/
theorem test_bitDelay_shifts_the_level :
    exec .bitDelay { at_ .bitDelay 39 .low with sh := 0x19 } = .next { at_ .bitWaitLow 0 .low with sh := 0x32 } ∧
    exec .bitDelay { at_ .bitDelay 39 .high with sh := 0x19 } = .next { at_ .bitWaitLow 0 .high with sh := 0x33 } :=
  ⟨rfl, rfl⟩
/-- V-DEC-5, V-DEC-8. -/
theorem test_bitDelay_drops_bit_seven :
    exec .bitDelay { at_ .bitDelay 38 .high with sh := 0x19 } = .next { at_ .bitDelay 39 .high with sh := 0x19 } ∧
    exec .bitDelay { at_ .bitDelay 39 .high with sh := 0x80 } = .next { at_ .bitWaitLow 0 .high with sh := 0x01 } :=
  ⟨rfl, rfl⟩
/-- V-DEC-9, V-DEC-11. -/
theorem test_bitWaitLow_counts_and_stores :
    exec .bitWaitLow { at_ .bitWaitLow 0 .low with sh := 0x03, bitCnt := 3 } =
      .next { at_ .bitWaitHigh 0 .low with sh := 0x03, bitCnt := 4 } ∧
    exec .bitWaitLow { at_ .bitWaitLow 0 .low with sh := 0x32, bitCnt := 7 } =
      .next { at_ .bitWaitHigh 0 .low with sh := 0x32, byteIdx := 1, frame := ⟨0x32, 0, 0, 0, 0⟩ } := ⟨rfl, rfl⟩
/-- V-DEC-12 with V-DEC-14, V-DEC-13. -/
theorem test_bitWaitLow_last_byte :
    exec .bitWaitLow
        { at_ .bitWaitLow 999 .low with sh := 0x4C, bitCnt := 7, byteIdx := 4, frame := ⟨0x32, 0x00, 0x15, 0x05, 0x00⟩ } =
      .next { at_ .validate 0 .low with sh := 0x4C, byteIdx := 4, frame := ⟨0x32, 0x00, 0x15, 0x05, 0x4C⟩ } ∧
    exec .bitWaitLow { at_ .bitWaitLow 999 .high with sh := 0x4C, bitCnt := 7, byteIdx := 4 } =
      .next { at_ .idle 0 .high with sh := 0x4C, bitCnt := 7, byteIdx := 4, done := true, status := .timeout } :=
  ⟨rfl, rfl⟩

/-- The state of the vectors V-VAL-1 to V-VAL-14, before. -/
def validating (f : RawFrame) : State :=
  { State.reset with phase := .validate, frame := f, status := .ok, readingValid := true, humRaw := 500, tempRaw := 215 }

/-- V-VAL-1 (the document's scenario, corrected), V-VAL-4 (the largest sum). -/
theorem test_validate_stores :
    exec .validate (validating ⟨0x32, 0x00, 0x15, 0x05, 0x4C⟩) =
      .next { validating ⟨0x32, 0x00, 0x15, 0x05, 0x4C⟩ with phase := .idle, done := true, humRaw := 12800, tempRaw := 5381 } ∧
    exec .validate (validating ⟨0xFF, 0xFF, 0xFF, 0xFF, 0xFC⟩) =
      .next { validating ⟨0xFF, 0xFF, 0xFF, 0xFF, 0xFC⟩ with phase := .idle, done := true, humRaw := 65535, tempRaw := 65535 } :=
  ⟨rfl, rfl⟩
/-- V-VAL-5. -/
theorem test_validate_discards :
    exec .validate (validating ⟨0x32, 0x00, 0x15, 0x05, 0x4D⟩) =
      .next { validating ⟨0x32, 0x00, 0x15, 0x05, 0x4D⟩ with phase := .idle, done := true, status := .checksumMismatch } :=
  rfl
/-- V-VAL-7: the decimal outputs of a temperature whose top bit is set. -/
theorem test_decimal_outputs : intPart 400 = 40 ∧ fracPart 400 = 0 ∧ intPart 32869 = 3286 ∧ fracPart 32869 = 9 := by decide
/-- A word in the place of the next operation is what the step from reset runs (V-CMD-4, R90). -/
theorem test_placed_word_runs :
    (∃ t, step (State.reset.withFetchWord 2 0b11) = .next t ∧ t.phase = .hsLow ∧ t.variantQ = .variantB) ∧
    ∃ t, step (State.reset.withFetchWord 4 0b0001) = .next t ∧ t.phase = .hsLow ∧ t.cnt = 1 :=
  ⟨⟨_, rfl, rfl, rfl⟩, _, rfl, rfl, rfl⟩

/-! ### Witnesses: for every statement with hypotheses, states that meet them -/

/-- An instance with short durations, so that a whole phase is a few ticks. -/
def short : Params := { tHoldA := 3, tHoldB := 2, tReady := 2, tAck1 := 2, tAck2 := 2, tBit := 3, tTimeout := 4 }

/-- The state with inputs scheduled: the levels of the line one a tick, no reset, the command pins as given. -/
def listening (s : State) (start : Bool) (v : Variant) : List Level → State
  | [] => s
  | l :: ls => { s with pins := ⟨false, start, v, l⟩, schedule := ls.map fun l => ⟨false, start, v, l⟩ }

theorem listening_hears (s : State) (b : Bool) (v : Variant) (ls : List Level) : (listening s b v ls).hears ls := by
  cases ls with
  | nil => exact List.nil_prefix
  | cons l ls => simp [State.hears, State.upcoming, listening, Function.comp_def]

theorem listening_noReset (s : State) (b : Bool) (v : Variant) (l : Level) (n : Nat) :
    (listening s b v (List.replicate (n + 1) l)).noReset (n + 1) := by
  simp [State.noReset, State.upcoming, listening, List.replicate_succ]

/-- A state of the short instance in a phase, hearing a line. -/
def hearing (p : Phase) (ls : List Level) : State :=
  listening { State.reset with phase := p, params := short } false .variantA ls

theorem hearing_hears (p : Phase) (ls : List Level) : (hearing p ls).hears ls := listening_hears _ _ _ _

/-- A state of an instance that accepts a command on this tick and hears a line. -/
def asking (q : Params) (v : Variant) (ls : List Level) : State := listening { State.reset with params := q } true v ls

theorem asking_hears (q : Params) (v : Variant) (ls : List Level) : (asking q v ls).hears ls := listening_hears _ _ _ _

/-- A frame with the checksum of V-VAL-2. -/
def goodFrame : RawFrame := ⟨0x01, 0xF4, 0x00, 0xD7, 0xCC⟩

theorem witness_NopOnlyClearsDone : State.reset.phase = .idle := rfl

theorem witness_NopTicksKeepTheBlock :
    let s := listening State.reset false .variantB [Level.high, .low, .high]
    s.phase = .idle ∧ 1 ≤ 3 ∧ 3 ≤ s.upcoming.length ∧ ∀ p ∈ s.upcoming.take 3, p.rst = false ∧ p.start = false := by
  decide

theorem witness_ReadAStartsARead :
    (asking short .variantA [Level.low]).phase = .idle ∧ (asking short .variantA [Level.low]).acceptsRead .variantA ∧
    ∃ t, exec .readA (asking short .variantA [Level.low]) = .next t := ⟨rfl, ⟨rfl, rfl, rfl, rfl⟩, _, rfl⟩

theorem witness_ReadBStartsARead :
    (asking short .variantB [Level.low]).phase = .idle ∧ (asking short .variantB [Level.low]).acceptsRead .variantB ∧
    ∃ t, exec .readB (asking short .variantB [Level.low]) = .next t := ⟨rfl, ⟨rfl, rfl, rfl, rfl⟩, _, rfl⟩

theorem witness_IdleDecodesTheCommandWord :
    (State.reset.phase = .idle ∧ State.reset.pins.start = false) ∧
    ((asking short .variantA [Level.low]).phase = .idle ∧ (asking short .variantA [Level.low]).pins.start = true ∧
      (asking short .variantA [Level.low]).pins.variant = .variantA) ∧
    ((asking short .variantB [Level.low]).phase = .idle ∧ (asking short .variantB [Level.low]).pins.start = true ∧
      (asking short .variantB [Level.low]).pins.variant = .variantB) := by decide

theorem witness_BusyBlockIgnoresCommands : (at_ .validate 0 .low).phase ≠ .idle ∧ (at_ .hsLow 0 .low).phase ≠ .idle := by
  decide

theorem witness_ReleaseTickOutcomes :
    ((at_ .hsRelease 999 .low).pins.lineIn = .low ∧ (at_ .hsRelease 999 .low).respOk = .failure) ∧
    ({ at_ .hsRelease 999 .low with respOk := .success }.pins.lineIn = .low) ∧
    ((at_ .hsRelease 999 .high).pins.lineIn = .high ∧
      (at_ .hsRelease 999 .high).cnt + 1 = (at_ .hsRelease 999 .high).params.tTimeout ∧
      (at_ .hsRelease 999 .high).respOk = .failure ∧ { at_ .hsRelease 999 .high with respOk := .success }.respOk = .success) ∧
    (at_ .hsRelease 998 .high).cnt + 1 ≠ (at_ .hsRelease 998 .high).params.tTimeout := by decide

theorem witness_BitWaitHighTickOutcomes :
    (at_ .bitWaitHigh 999 .high).pins.lineIn = .high ∧
    ((at_ .bitWaitHigh 999 .low).pins.lineIn = .low ∧
      (at_ .bitWaitHigh 999 .low).cnt + 1 = (at_ .bitWaitHigh 999 .low).params.tTimeout) ∧
    (at_ .bitWaitHigh 998 .low).cnt + 1 ≠ (at_ .bitWaitHigh 998 .low).params.tTimeout := by decide

theorem witness_BitWaitLowTickOutcomes :
    ((at_ .bitWaitLow 999 .low).pins.lineIn = .low ∧ (at_ .bitWaitLow 999 .low).bitCnt ≠ 7) ∧
    { at_ .bitWaitLow 999 .low with bitCnt := 7, byteIdx := 4 }.bitCnt = 7 ∧
    ((at_ .bitWaitLow 999 .high).pins.lineIn = .high ∧
      (at_ .bitWaitLow 999 .high).cnt + 1 = (at_ .bitWaitLow 999 .high).params.tTimeout) ∧
    (at_ .bitWaitLow 998 .high).cnt + 1 ≠ (at_ .bitWaitLow 998 .high).params.tTimeout := by decide

theorem witness_StartPulseLastsTheHoldTime :
    let s := hearing .hsLow (List.replicate 3 Level.high)
    s.phase = .hsLow ∧ s.cnt = 0 ∧ 1 ≤ holdTime s.params s.variantQ ∧ s.noReset (holdTime s.params s.variantQ) :=
  ⟨rfl, rfl, by decide, listening_noReset _ _ _ _ 2⟩

theorem witness_ReadyPulseThenInput :
    let s := hearing .hsHigh (List.replicate 2 Level.high)
    s.phase = .hsHigh ∧ s.cnt = 0 ∧ 1 ≤ s.params.tReady ∧ s.noReset s.params.tReady :=
  ⟨rfl, rfl, by decide, listening_noReset _ _ _ _ 1⟩

theorem witness_FirstSampleAfterFortyTicks :
    let s := hearing .hsWait1 ([Level.high, .low] ++ [Level.low])
    s.phase = .hsWait1 ∧ s.cnt = 0 ∧ [Level.high, Level.low].length = s.params.tAck1 ∧
      s.hears ([Level.high, .low] ++ [Level.low]) := ⟨rfl, rfl, rfl, hearing_hears _ _⟩

theorem witness_SecondSampleOnTheLastTick :
    let s := hearing .hsWait2 ([Level.low] ++ [Level.high])
    s.phase = .hsWait2 ∧ s.cnt = 0 ∧ [Level.low].length + 1 = s.params.tAck2 ∧ s.hears ([Level.low] ++ [Level.high]) :=
  ⟨rfl, rfl, rfl, hearing_hears _ _⟩

/-- The shortest and the longest wait that end, and the one that expires. -/
theorem witness_ReleaseWaitIsBounded :
    (hearing .hsRelease (List.replicate 0 Level.high ++ [Level.low])).hears (List.replicate 0 Level.high ++ [Level.low]) ∧
    (3 < short.tTimeout ∧ (hearing .hsRelease (List.replicate 3 Level.high ++ [Level.low])).hears (List.replicate 3 Level.high ++ [Level.low])) ∧
    (let s := hearing .hsRelease (List.replicate 4 Level.high)
     s.phase = .hsRelease ∧ s.cnt = 0 ∧ 1 ≤ s.params.tTimeout ∧ s.hears (List.replicate s.params.tTimeout Level.high)) :=
  ⟨hearing_hears _ _, ⟨by decide, hearing_hears _ _⟩, rfl, rfl, by decide, hearing_hears _ _⟩

theorem witness_WaitForHighIsBounded :
    (hearing .bitWaitHigh (List.replicate 0 Level.low ++ [Level.high])).hears (List.replicate 0 Level.low ++ [Level.high]) ∧
    (3 < short.tTimeout ∧ (hearing .bitWaitHigh (List.replicate 3 Level.low ++ [Level.high])).hears (List.replicate 3 Level.low ++ [Level.high])) ∧
    (let s := hearing .bitWaitHigh (List.replicate 4 Level.low)
     s.phase = .bitWaitHigh ∧ s.cnt = 0 ∧ 1 ≤ s.params.tTimeout ∧ s.hears (List.replicate s.params.tTimeout Level.low)) :=
  ⟨hearing_hears _ _, ⟨by decide, hearing_hears _ _⟩, rfl, rfl, by decide, hearing_hears _ _⟩

theorem witness_DelayThenSampleShiftsTheBit :
    let s := hearing .bitDelay ([Level.low, .low] ++ [Level.high])
    s.phase = .bitDelay ∧ s.cnt = 0 ∧ [Level.low, Level.low].length + 1 = s.params.tBit ∧
      s.hears ([Level.low, .low] ++ [Level.high]) := ⟨rfl, rfl, rfl, hearing_hears _ _⟩

theorem witness_WaitForLowIsBounded :
    (hearing .bitWaitLow (List.replicate 0 Level.high ++ [Level.low])).hears (List.replicate 0 Level.high ++ [Level.low]) ∧
    (3 < short.tTimeout ∧ (hearing .bitWaitLow (List.replicate 3 Level.high ++ [Level.low])).hears (List.replicate 3 Level.high ++ [Level.low])) ∧
    (let s := hearing .bitWaitLow (List.replicate 4 Level.high)
     s.phase = .bitWaitLow ∧ s.cnt = 0 ∧ 1 ≤ s.params.tTimeout ∧ s.hears (List.replicate s.params.tTimeout Level.high)) :=
  ⟨hearing_hears _ _, ⟨by decide, hearing_hears _ _⟩, rfl, rfl, by decide, hearing_hears _ _⟩

/-- Every clause of the discriminator at the ends of its range: a Low of `T_TIMEOUT` ticks; widths 1 and `T_BIT`, the
line Low or risen again at the sample; `T_BIT + 1` and `T_BIT + T_TIMEOUT`; `T_BIT + T_TIMEOUT + 1`. -/
theorem witness_DiscriminatorLaw :
    (let s := hearing .bitWaitHigh (List.replicate 4 Level.low)
     s.phase = .bitWaitHigh ∧ s.cnt = 0 ∧ s.params.positive = true ∧ s.params.tTimeout ≤ 4 ∧
       s.hears (List.replicate 4 Level.low)) ∧
    (let ls := List.replicate 3 Level.low ++ List.replicate 1 Level.high ++ [Level.low, .low] ++ [Level.high]
     3 < short.tTimeout ∧ 1 + [Level.low, Level.low].length = short.tBit ∧ (hearing .bitWaitHigh ls).hears ls) ∧
    (let ls := List.replicate 3 Level.low ++ List.replicate 3 Level.high ++ [] ++ [Level.low]
     3 < short.tTimeout ∧ 3 + ([] : List Level).length = short.tBit ∧ (hearing .bitWaitHigh ls).hears ls) ∧
    (let ls := List.replicate 3 Level.low ++ List.replicate 1 Level.high ++ [Level.high, .low] ++ [Level.low, .low]
     1 + [Level.high, Level.low].length = short.tBit ∧ (hearing .bitWaitHigh ls).hears ls) ∧
    (let ls := List.replicate 0 Level.low ++ List.replicate 4 Level.high ++ [Level.low]
     short.tBit < 4 ∧ 4 ≤ short.tBit + short.tTimeout ∧ (hearing .bitWaitHigh ls).hears ls) ∧
    (let ls := List.replicate 0 Level.low ++ List.replicate 7 Level.high ++ [Level.low]
     short.tBit < 7 ∧ 7 ≤ short.tBit + short.tTimeout ∧ (hearing .bitWaitHigh ls).hears ls) ∧
    (let ls := List.replicate 0 Level.low ++ List.replicate 8 Level.high
     short.tBit + short.tTimeout < 8 ∧ (hearing .bitWaitHigh ls).hears ls) :=
  ⟨⟨rfl, rfl, by decide, by decide, hearing_hears _ _⟩, ⟨by decide, rfl, hearing_hears _ _⟩,
    ⟨by decide, rfl, hearing_hears _ _⟩, ⟨rfl, hearing_hears _ _⟩, ⟨by decide, by decide, hearing_hears _ _⟩,
    ⟨by decide, by decide, hearing_hears _ _⟩, by decide, hearing_hears _ _⟩

/-- High for 1, 40 and 41 ticks on this hardware. -/
theorem witness_FortyTicksDecodeToZero :
    let at40 (ls : List Level) := listening { State.reset with phase := .bitWaitHigh } false .variantA ls
    ((at40 []).phase = .bitWaitHigh ∧ (at40 []).cnt = 0 ∧ (at40 []).params.tBit = 40 ∧ 50 < (at40 []).params.tTimeout) ∧
    (let ls := List.replicate 50 Level.low ++ [Level.high] ++ List.replicate 39 Level.low ++ [Level.high]
     (List.replicate 39 Level.low).length = 39 ∧ (at40 ls).hears ls) ∧
    ∀ w, w = 1 ∨ w = 40 ∨ w = 41 →
      let ls := List.replicate 50 Level.low ++ List.replicate w Level.high ++ List.replicate (41 - w) Level.low
      1 ≤ w ∧ w ≤ 41 ∧ (at40 ls).hears ls :=
  ⟨⟨rfl, rfl, rfl, by decide⟩, ⟨List.length_replicate, listening_hears _ _ _ _⟩,
    fun w h => ⟨by omega, by omega, listening_hears _ _ _ _⟩⟩

/-- The widths at which the answer changes, 3 and 4, 7 and 8, and the shortest, 1. -/
theorem witness_SymbolWidthDecidesTheBit :
    (decodedBit short 3 = some false ∧ decodedBit short 4 = some true ∧ decodedBit short 7 = some true ∧
      decodedBit short 8 = none) ∧
    ∀ w, w = 1 ∨ w = 3 ∨ w = 4 ∨ w = 7 ∨ w = 8 →
      let ls := List.replicate 3 Level.low ++ List.replicate w Level.high ++ List.replicate (short.tBit + 2) Level.low
      let s := hearing .bitWaitHigh ls
      s.phase = .bitWaitHigh ∧ s.cnt = 0 ∧ s.params.positive = true ∧ 1 ≤ w ∧ 3 < s.params.tTimeout ∧ s.hears ls :=
  ⟨by decide, fun w h => ⟨rfl, rfl, rfl, by omega, (by decide : 3 < 4), hearing_hears _ _⟩⟩

theorem witness_EightShiftsAssembleAByte :
    let s := { at_ .bitWaitLow 0 .low with sh := 0x32, bitCnt := 7, byteIdx := 4 }
    s.sh = [Level.low, .low, .high, .high, .low, .low, .high, .low].foldl shiftIn 0xFF ∧ s.bitCnt = 7 ∧
      s.pins.lineIn = .low := by decide

/-- An iteration before the last, the one before the last, and the last. -/
theorem witness_BitsFillTheFrameInOrder :
    (at_ .bitWaitLow 0 .low).pins.lineIn = .low ∧ (at_ .bitWaitLow 0 .low).bitNumber = 0 ∧
    { at_ .bitWaitLow 0 .low with byteIdx := 4, bitCnt := 6 }.bitNumber = 38 ∧
    { at_ .bitWaitLow 0 .low with byteIdx := 4, bitCnt := 7 }.bitNumber = 39 := by decide

/-- In the handshake, and in the decode with byte 1 half received. -/
theorem witness_UnreceivedBytesAreZero :
    (let s := hearing .hsRelease [Level.low, .low]
     s.handshaking ∧ s.byteIdx = 0 ∧ s.bitCnt = 0 ∧ s.sh = 0 ∧ (∀ i, readByte s.frame i = 0) ∧ ∃ t, step s = .next t) ∧
    (let s := { hearing .bitWaitLow [Level.low, .low] with byteIdx := 1, sh := 0x80, bitCnt := 7, frame := ⟨9, 0, 0, 0, 0⟩ }
     s.decoding ∧ (∀ i, s.byteIdx ≤ i → readByte s.frame i = 0) ∧ ∃ t, step s = .next t ∧ t.decoding) := by
  refine ⟨⟨?_, rfl, rfl, rfl, by decide, _, rfl⟩, ?_, by decide, _, rfl, ?_⟩
  · exact .inr (.inr (.inr (.inr rfl)))
  · exact .inr (.inr rfl)
  · exact .inl rfl

/-- The line of a handshake on the short instance, VariantB: while the block drives, the two samples, the release. -/
def handshakeLine (s1 : Level) (second : List Level) (release : List Level) : List Level :=
  .low :: List.replicate 4 Level.low ++ (List.replicate 2 Level.high ++ [s1]) ++ second ++ release

theorem witness_HandshakeOutcomes :
    ((asking short .variantB [Level.low]).acceptsRead .variantB ∧ short.positive = true ∧ 3 < short.tTimeout ∧
      (List.replicate 4 Level.low).length = holdTime short .variantB + short.tReady ∧
      (List.replicate 2 Level.high).length = short.tAck1 ∧ [Level.low].length + 1 = short.tAck2) ∧
    (∀ n, n = 0 ∨ n = 3 → (asking short .variantB (handshakeLine .high [] (List.replicate n Level.high ++ [Level.low]))).hears
      (handshakeLine .high [] (List.replicate n Level.high ++ [Level.low]))) ∧
    (asking short .variantB (handshakeLine .high [] (List.replicate 4 Level.high))).hears
      (handshakeLine .high [] (List.replicate 4 Level.high)) ∧
    (∀ s2, (asking short .variantB (handshakeLine .low ([Level.low] ++ [s2]) (List.replicate 3 Level.high ++ [Level.low]))).hears
      (handshakeLine .low ([Level.low] ++ [s2]) (List.replicate 3 Level.high ++ [Level.low]))) ∧
    ∀ s2, (asking short .variantB (handshakeLine .low ([Level.low] ++ [s2]) (List.replicate 4 Level.high))).hears
      (handshakeLine .low ([Level.low] ++ [s2]) (List.replicate 4 Level.high)) :=
  ⟨⟨⟨rfl, rfl, rfl, rfl⟩, by decide, by decide, rfl, rfl, rfl⟩, fun _ _ => asking_hears _ _ _, asking_hears _ _ _,
    fun _ => asking_hears _ _ _, fun _ => asking_hears _ _ _⟩

theorem witness_DeadLinesGiveNoResponse :
    let up := Level.low :: List.replicate 5 Level.low ++ List.replicate (short.tAck1 + 1 + short.tTimeout) Level.high
    let down := Level.low :: List.replicate 5 Level.high ++ List.replicate (short.tAck1 + 1 + short.tAck2 + 1) Level.low
    (asking short .variantA up).acceptsRead .variantA ∧ (asking short .variantA down).acceptsRead .variantA ∧
    short.positive = true ∧ (List.replicate 5 Level.low).length = holdTime short .variantA + short.tReady ∧
    12 = holdTime short .variantA + short.tReady + short.tAck1 + 1 + short.tTimeout ∧
    11 = holdTime short .variantA + short.tReady + short.tAck1 + 1 + short.tAck2 + 1 ∧
    (asking short .variantA up).hears up ∧ (asking short .variantA down).hears down :=
  ⟨⟨rfl, rfl, rfl, rfl⟩, ⟨rfl, rfl, rfl, rfl⟩, by decide, rfl, rfl, rfl, asking_hears _ _ _, asking_hears _ _ _⟩

/-- This hardware, VariantB, response delays 0 and 40, a valid and an invalid frame. -/
theorem witness_NominalReadDeliversTheFrame :
    Params.thisHardware.wf = true ∧
    (List.replicate 1220 Level.low).length = holdTime Params.thisHardware .variantB + Params.thisHardware.tReady ∧
    frameValid goodFrame = true ∧ frameValid { goodFrame with checksum := 0xCD } = false ∧
    ∀ d f, d = 0 ∨ d = 40 →
      let line := Level.low :: List.replicate 1220 Level.low ++ levelsOf (sensorWave d f)
      let s := asking Params.thisHardware .variantB line
      s.acceptsRead .variantB ∧ s.params = Params.thisHardware ∧ d ≤ 40 ∧ s.hears line :=
  ⟨by decide, List.length_replicate, by decide, by decide,
    fun d f h => ⟨⟨rfl, rfl, rfl, rfl⟩, rfl, by omega, asking_hears _ _ _⟩⟩

theorem witness_EveryReadEndsWithinTheBound :
    let s := asking short .variantA (List.replicate (455 + 1) Level.low)
    s.acceptsRead .variantA ∧ s.params.positive = true ∧ busyBound s.params (holdTime s.params .variantA) = 455 ∧
      s.noReset (455 + 1) := ⟨⟨rfl, rfl, rfl, rfl⟩, by decide, by decide, listening_noReset _ _ _ _ _⟩

/-- The invariant holds on the last tick of a start pulse, the largest count of this hardware (R12). -/
theorem longestPulse_inv : { State.reset with phase := .hsLow, cnt := 17999 }.Inv where
  params_positive := by decide
  cnt_in_phase := by show 17999 < 18000; decide
  done_idle := by decide
  none_not_valid := by decide
  not_valid_zero := by decide
  validate_position := by decide
  decoding_success := by rintro (h | h | h) <;> cases h

/-- The invariant holds on the last tick of a wait of the short instance. -/
theorem lastWait_inv (ls : List Level) : (listening { at_ .hsRelease 3 .high with params := short } false .variantA ls).Inv := by
  cases ls <;> exact
    { params_positive := rfl
      cnt_in_phase := by show 3 < 4; decide
      done_idle := by rintro h; cases h
      none_not_valid := fun _ => rfl
      not_valid_zero := fun _ => ⟨rfl, rfl⟩
      validate_position := by rintro h; cases h
      decoding_success := by rintro (h | h | h) <;> cases h }

theorem witness_TheBlockNeverHangs :
    let s := listening { at_ .hsRelease 3 .high with params := short } false .variantA (List.replicate (453 + 1) Level.high)
    s.Inv ∧ busyBound s.params (holdTime s.params s.variantQ) = 453 + 1 ∧ s.noReset (453 + 1) :=
  ⟨lastWait_inv _, by decide, listening_noReset _ _ _ _ _⟩

/-- A dead line on the short instance, heard by a block after reset and by one that holds a Reading; the read ends on
the last tick. -/
theorem witness_ReadDependsOnTheLineAlone :
    let line := List.replicate 11 Level.high
    let s1 := asking short .variantB (Level.low :: line)
    let s2 := listening
      { State.reset with
        params := short, status := .ok, readingValid := true, humRaw := 500, tempRaw := 215, done := true
        sh := 0xCC, frame := goodFrame } true .variantB (Level.high :: line)
    s1.acceptsRead .variantB ∧ s2.acceptsRead .variantB ∧ s1.params = s2.params ∧
    s1.hears (Level.low :: line) ∧ s2.hears (Level.high :: line) ∧
    (∀ k, 1 ≤ k → k ≤ line.length → ∃ u, RunsTo k s1 u ∧ busy u = true) ∧
    ∃ t, RunsTo (line.length + 1) s1 t ∧ t.done = true := by
  refine ⟨⟨rfl, rfl, rfl, rfl⟩, ⟨rfl, rfl, rfl, rfl⟩, rfl, asking_hears _ _ _, listening_hears _ _ _ _, ?_, _, rfl, rfl⟩
  intro k h1 h2
  simp only [List.length_replicate] at h2
  interval_cases k <;> exact ⟨_, rfl, rfl⟩

/-- The instance of the shortest read: every duration is 1. -/
def unitParams : Params :=
  { tHoldA := 1, tHoldB := 1, tReady := 1, tAck1 := 1, tAck2 := 1, tBit := 1, tTimeout := 1 }

/-- The state after `n` ticks, if each of them leads to a busy block. -/
def busyTicks : Nat → State → Option State
  | 0, s => some s
  | n + 1, s =>
    match step s with
    | .next t => if busy t then busyTicks n t else none
    | _ => none

/-- What the shortest `OK` read hears after the accepting tick: the drive, the two samples, the release, forty bits 0. -/
def shortestRead : List Level :=
  [.low, .low, .high, .low, .high, .low] ++ (List.replicate 40 [Level.high, .low, .low]).flatten ++ [.low]

theorem shortestRead_ends_ok :
    (match busyTicks 127 (asking unitParams .variantB (Level.low :: shortestRead)) with
      | some t => match step t with
        | .next u => u.done && u.status == .ok
        | _ => false
      | none => false) = true := by
  rfl

theorem busyTicks_spec {n : Nat} {s t : State} (h : busyTicks n s = some t) :
    (∀ k, 1 ≤ k → k ≤ n → ∃ u, RunsTo k s u ∧ busy u = true) ∧ RunsTo n s t := by
  induction n generalizing s with
  | zero =>
    obtain rfl : s = t := by simpa [busyTicks] using h
    exact ⟨fun k h1 h2 => absurd h1 (by omega), runsTo_zero s⟩
  | succ n ih =>
    cases hs : step s with
    | next v =>
      by_cases hb : busy v = true
      · obtain ⟨h1, h2⟩ := ih (s := v) (by simpa [busyTicks, hs, hb] using h)
        refine ⟨fun k hk hk' => ?_, runsTo_succ hs h2⟩
        by_cases hk1 : k = 1
        · subst hk1; exact ⟨v, runsTo_one hs, hb⟩
        · obtain ⟨u, hu, hbu⟩ := h1 (k - 1) (by omega) (by omega)
          refine ⟨u, ?_, hbu⟩
          have := runsTo_succ hs hu
          rwa [Nat.sub_add_cancel hk] at this
      · simp [busyTicks, hs, hb] at h
    | fault f => simp [busyTicks, hs] at h
    | refused r => simp [busyTicks, hs] at h

/-- A whole read that ends with `OK` (the all-zero frame, on the instance of unit durations), so that the clause on the
Reading is met, heard by a block after reset and by one that holds another Reading. -/
theorem witness_ReadDependsOnTheLineAlone_ok :
    let line := shortestRead
    let s1 := asking unitParams .variantB (Level.low :: line)
    let s2 := listening { State.reset with params := unitParams, status := .ok, readingValid := true, humRaw := 500 }
      true .variantB (Level.high :: line)
    s1.acceptsRead .variantB ∧ s2.acceptsRead .variantB ∧ s1.params = s2.params ∧
    s1.hears (Level.low :: line) ∧ s2.hears (Level.high :: line) ∧
    (∀ k, 1 ≤ k → k ≤ line.length → ∃ u, RunsTo k s1 u ∧ busy u = true) ∧
    ∃ t, RunsTo (line.length + 1) s1 t ∧ t.done = true ∧ t.status = .ok := by
  refine ⟨⟨rfl, rfl, rfl, rfl⟩, ⟨rfl, rfl, rfl, rfl⟩, rfl, asking_hears _ _ _, listening_hears _ _ _ _, ?_⟩
  have h := shortestRead_ends_ok
  split at h
  · next u hu =>
    obtain ⟨h1, h2⟩ := busyTicks_spec hu
    refine ⟨h1, ?_⟩
    split at h
    · next v hv =>
      simp only [Bool.and_eq_true, beq_iff_eq] at h
      exact ⟨v, runsTo_add h2 (runsTo_one hv), h⟩
    · cases h
  · cases h

theorem witness_InvariantIsKept :
    { State.reset with phase := .hsLow, cnt := 17999 }.Inv ∧
    ∃ t, step { State.reset with phase := .hsLow, cnt := 17999 } = .next t := ⟨longestPulse_inv, _, rfl⟩

theorem witness_ResetMeetsTheInvariant :
    { State.reset with params := short }.isReset ∧ { State.reset with params := short }.params.positive = true :=
  ⟨rfl, by decide⟩

theorem witness_ReachableStatesMeetTheInvariant :
    ∃ t, step { State.reset with params := short } = .next t ∧ Reachable t ∧ t.params.positive = true :=
  ⟨_, rfl, .tick { State.reset with params := short } _ (.start _ rfl) rfl, rfl⟩

theorem witness_CounterNeverOverflows :
    let s := { State.reset with phase := .hsLow, cnt := 17999 }
    s.Inv ∧ s.params = Params.thisHardware ∧ s.params.fitCounter = true := ⟨longestPulse_inv, rfl, by decide⟩

theorem witness_StepRunsTheDecodedOperation :
    let s := at_ .bitDelay 39 .high
    decode .ph s.phase.code.toNat = .ok .bitDelay ∧ Instr.bitDelay.wf = true ∧ s.pins.rst = false ∧
    (∃ t, exec .bitDelay s = .next t ∧ t.schedule = []) ∧
    ∃ t, exec .bitDelay { s with schedule := [quietPins] } = .next t ∧ t.schedule = quietPins :: [] :=
  ⟨rfl, rfl, rfl, ⟨_, rfl, rfl⟩, _, rfl, rfl⟩

theorem witness_PlacedWordRunsNext :
    (∃ t, exec .readB (State.reset.withFetchWord Instr.readB.format.width (encode .readB)) = .next t) ∧
    ∃ t, exec .validate (State.reset.withFetchWord Instr.validate.format.width (encode .validate)) = .next t :=
  ⟨⟨_, rfl⟩, _, rfl⟩

/-- Reset for one tick and for two, after which a command stands at the pins; and a tick without reset. -/
theorem witness_ResetOverridesEverything :
    (let s := { at_ .bitWaitHigh 35 .low with
      pins := ⟨true, true, .variantB, .high⟩
      schedule := [⟨true, true, .variantA, .low⟩, ⟨false, true, .variantA, .low⟩] }
     s.pins.rst = true ∧ List.replicate 1 true <+: s.upcoming.map Pins.rst ∧
       List.replicate 2 true <+: s.upcoming.map Pins.rst ∧
       ∃ t, RunsTo 2 s t ∧ t.pins.rst = false ∧ t.pins.start = true) ∧
    (at_ .bitWaitHigh 35 .low).pins.rst = false :=
  ⟨⟨rfl, by decide, by decide, _, rfl, rfl, rfl⟩, rfl⟩

/-- A valid frame, an invalid one, and a state that does not validate. -/
theorem witness_OnlyAGoodFrameChangesTheReading :
    ((validating goodFrame).pins.rst = false ∧ (validating goodFrame).phase = .validate ∧ frameValid goodFrame = true ∧
      ∃ t, step (validating goodFrame) = .next t) ∧
    (frameValid { goodFrame with tempLow := 0 } = false ∧
      ∃ t, step (validating { goodFrame with tempLow := 0 }) = .next t) ∧
    (at_ .hsLow 0 .low).phase ≠ .validate ∧ ∃ t, step (at_ .hsLow 0 .low) = .next t :=
  ⟨⟨rfl, rfl, by decide, _, rfl⟩, ⟨by decide, _, rfl⟩, by decide, _, rfl⟩

/-- The tick that completes a read, and the tick after it. -/
theorem witness_DoneIsAOneTickPulse :
    (let s := { at_ .hsRelease 3 .high with params := short }
     s.Inv ∧ s.pins.rst = false ∧ ∃ t, step s = .next t ∧ t.phase = .idle) ∧
    (let s := { State.reset with done := true, status := .noResponse }
     s.Inv ∧ s.pins.rst = false ∧ s.done = true ∧ ∃ t, step s = .next t) := by
  refine ⟨⟨lastWait_inv [], rfl, _, rfl, rfl⟩, ?_, rfl, rfl, _, rfl⟩
  exact
    { params_positive := by decide
      cnt_in_phase := rfl
      done_idle := by decide
      none_not_valid := by decide
      not_valid_zero := by decide
      validate_position := by rintro h; cases h
      decoding_success := by rintro (h | h | h) <;> cases h }

/-- All seven completions happen. -/
theorem witness_SevenCompletionsAndTheirCauses :
    (∃ t, step (validating goodFrame) = .next t ∧ t.phase = .idle ∧ t.status = .ok) ∧
    (∃ t, step (validating { goodFrame with tempLow := 0 }) = .next t ∧ t.phase = .idle ∧ t.status = .checksumMismatch) ∧
    (∃ t, step (at_ .hsRelease 0 .low) = .next t ∧ t.phase = .idle ∧ t.status = .noResponse) ∧
    (∃ t, step (at_ .hsRelease 999 .high) = .next t ∧ t.phase = .idle ∧ t.status = .noResponse) ∧
    (∃ t, step { at_ .hsRelease 999 .high with respOk := .success } = .next t ∧ t.phase = .idle ∧ t.status = .timeout) ∧
    (∃ t, step (at_ .bitWaitHigh 999 .low) = .next t ∧ t.phase = .idle ∧ t.status = .timeout) ∧
    ∃ t, step (at_ .bitWaitLow 999 .high) = .next t ∧ t.phase = .idle ∧ t.status = .timeout :=
  ⟨⟨_, rfl, rfl, rfl⟩, ⟨_, rfl, rfl, rfl⟩, ⟨_, rfl, rfl, rfl⟩, ⟨_, rfl, rfl, rfl⟩, ⟨_, rfl, rfl, rfl⟩, ⟨_, rfl, rfl, rfl⟩,
    _, rfl, rfl, rfl⟩

/-- A change of phase, a phase that stays, and `IDLE` that stays. -/
theorem witness_PhasesFollowTheTable :
    (∃ t, step (at_ .hsHigh 19 .low) = .next t ∧ t.phase ≠ .hsHigh) ∧
    (∃ t, step (at_ .hsHigh 18 .low) = .next t ∧ t.phase = .hsHigh) ∧ ∃ t, step State.reset = .next t ∧ t.phase = .idle :=
  ⟨⟨_, rfl, by decide⟩, ⟨_, rfl, rfl⟩, _, rfl, rfl⟩

theorem witness_LineIsTakenAndGivenUpOnce :
    (lineOe (asking short .variantA [Level.low]) = .input ∧
      ∃ t, step (asking short .variantA [Level.low]) = .next t ∧ lineOe t = .output) ∧
    (lineOe (at_ .hsHigh 19 .low) = .output ∧ ∃ t, step (at_ .hsHigh 19 .low) = .next t ∧ lineOe t = .input) ∧
    (lineOe (at_ .hsHigh 18 .low) = .output ∧ lineOut (at_ .hsHigh 18 .low) = .high ∧
      ∃ t, step (at_ .hsHigh 18 .low) = .next t ∧ lineOe t = .output) :=
  ⟨⟨rfl, _, rfl, rfl⟩, ⟨rfl, _, rfl, rfl⟩, rfl, rfl, _, rfl, rfl⟩

theorem witness_LineIsReadOnlyWhereSampled :
    State.reset.phase = .idle ∧ (at_ .hsLow 0 .low).phase = .hsLow ∧ (at_ .hsHigh 0 .low).phase = .hsHigh ∧
    (at_ .validate 0 .low).phase = .validate ∧
    ((at_ .hsWait1 39 .low).phase = .hsWait1 ∧ (at_ .hsWait1 39 .low).cnt ≠ (at_ .hsWait1 39 .low).params.tAck1) ∧
    ((at_ .hsWait2 78 .low).phase = .hsWait2 ∧ (at_ .hsWait2 78 .low).cnt + 1 ≠ (at_ .hsWait2 78 .low).params.tAck2) ∧
    ((at_ .bitDelay 38 .low).phase = .bitDelay ∧ (at_ .bitDelay 38 .low).cnt + 1 ≠ (at_ .bitDelay 38 .low).params.tBit) := by
  decide

theorem witness_InstanceAndInputsAreNotWritten :
    (∃ t, exec .hsWait2 (at_ .hsWait2 79 .high) = .next t) ∧ ∃ t, step (at_ .hsWait2 79 .high) = .next t :=
  ⟨⟨_, rfl⟩, _, rfl⟩

theorem witness_ChecksumDetectsEverySingleByteError :
    frameValid goodFrame = true ∧ (0xCD : Byte) ≠ readByte goodFrame 4 := by decide

theorem witness_ValidateStoresOrDiscards : (validating goodFrame).phase = .validate := rfl

theorem witness_RawReadingsAreBigEndian : frameValid (validating goodFrame).frame = true := by decide

theorem witness_OutputsFollowTheState :
    State.reset.block = { State.reset with pins := ⟨true, true, .variantB, .high⟩, schedule := [quietPins] }.block := rfl

theorem witness_FrameWordAndBytesAgree : 7 < 8 ∧ goodFrame.toWord = 0x01F400D7CC := by decide

theorem witness_DecodeEncodeAgree : Instr.readB.wf = true ∧ Instr.bitWaitLow.wf = true := by decide

theorem witness_OnlyEncodingsDecode :
    decode .cmd 0b01 = .ok .nop ∧ decode .ph 0b1001 = .ok .validate ∧ 10 ≤ 15 ∧ 16 ≤ 16 ∧ 4 ≤ 4 := ⟨rfl, rfl, by decide⟩

theorem witness_AcceptedReadsAgree :
    let s1 := commanding .variantB State.reset
    let s2 := commanding .variantB
      { State.reset with status := .ok, readingValid := true, humRaw := 500, done := true, sh := 0xCC, frame := goodFrame }
    s1.acceptsRead .variantB ∧ s2.acceptsRead .variantB ∧ s1.params = s2.params :=
  ⟨⟨rfl, rfl, rfl, rfl⟩, ⟨rfl, rfl, rfl, rfl⟩, rfl⟩

/-- Two blocks with different Readings: in `IDLE` with the line unlike, in `VALIDATE` with a good frame and the command
inputs unlike (the read completes with `OK`), and under reset. -/
theorem witness_AgreementOfReadsIsKept :
    (let s1 := commanding .variantB State.reset
     let s2 : State := { s1 with status := .timeout, humRaw := 500, pins := { s1.pins with lineIn := .high } }
     SameRead s1 s2 ∧ s1.pins.rst = s2.pins.rst ∧ s1.pins.lineIn ≠ s2.pins.lineIn ∧
     (s1.pins.start = s2.pins.start ∧ s1.pins.variant = s2.pins.variant) ∧ s1.phase = .idle ∧
     (∃ t, step s1 = .next t) ∧ ∃ t, step s2 = .next t) ∧
    (let s1 := validating goodFrame
     let s2 := commanding .variantB { s1 with status := .ok, readingValid := true, humRaw := 77 }
     SameRead s1 s2 ∧ s1.pins.rst = s2.pins.rst ∧ s1.pins.lineIn = s2.pins.lineIn ∧ s1.phase ≠ .idle ∧
     s1.pins.rst = false ∧ (∃ t, step s1 = .next t ∧ t.phase = .idle ∧ t.status = .ok) ∧ ∃ t, step s2 = .next t) ∧
    (let s1 : State := { validating goodFrame with pins := { quietPins with rst := true } }
     let s2 : State := { s1 with humRaw := 77 }
     SameRead s1 s2 ∧ s1.pins.rst = s2.pins.rst ∧ s1.pins.lineIn = s2.pins.lineIn ∧ s1.phase ≠ .idle ∧
     (∃ t, step s1 = .next t) ∧ ∃ t, step s2 = .next t) :=
  ⟨⟨⟨rfl, rfl, rfl, rfl, rfl, rfl, rfl, rfl, rfl⟩, rfl, by decide, ⟨rfl, rfl⟩, rfl, ⟨_, rfl⟩, ⟨_, rfl⟩⟩,
    ⟨⟨rfl, rfl, rfl, rfl, rfl, rfl, rfl, rfl, rfl⟩, rfl, rfl, by decide, rfl, ⟨_, rfl, rfl, rfl⟩, ⟨_, rfl⟩⟩,
    ⟨⟨rfl, rfl, rfl, rfl, rfl, rfl, rfl, rfl, rfl⟩, rfl, rfl, by decide, ⟨_, rfl⟩, ⟨_, rfl⟩⟩⟩

end Sys2Proof.Tests
end

section
/-! Totality of the step (spec/00_scope.md R7): no operation stops, and the tick after it always comes. -/

namespace Sys2Proof.Machine

/-- The `IDLE` operation answers a next state for each command that the command word can name: R61 reserves none. -/
theorem execIdle_answers (s : State) : ∃ t, execIdle s = .next t := by
  unfold execIdle
  cases decodeCommand (commandWord s.pins) with
  | nop => exact ⟨_, rfl⟩
  | readA => exact ⟨_, rfl⟩
  | readB => exact ⟨_, rfl⟩

/-- No operation faults or is refused, in whatever state it is performed. Every arm but `IDLE` is by its definition
one `.next`. -/
theorem exec_answers (i : Instr) (s : State) : ∃ t, exec i s = .next t := by
  cases i with
  | nop => exact ⟨_, rfl⟩
  | readA => exact ⟨_, rfl⟩
  | readB => exact ⟨_, rfl⟩
  | idle => exact execIdle_answers s
  | hsLow => exact ⟨_, rfl⟩
  | hsHigh => exact ⟨_, rfl⟩
  | hsWait1 => exact ⟨_, rfl⟩
  | hsWait2 => exact ⟨_, rfl⟩
  | hsRelease => exact ⟨_, rfl⟩
  | bitWaitHigh => exact ⟨_, rfl⟩
  | bitDelay => exact ⟨_, rfl⟩
  | bitWaitLow => exact ⟨_, rfl⟩
  | validate => exact ⟨_, rfl⟩

/-- A tick without reset ends in the state its phase operation answers, with the tick passed. -/
theorem step_next_of_exec {s t : State} (hr : s.pins.rst = false) (h : exec s.phase.instr s = .next t) :
    step s = .next t.nextTick := by
  rw [step_runs_phase s hr, h, finishTick_next]

/-- Settles O38, by the two branches of R160's step: the reset, and the operation that the phase register names. The
phase register holds no reserved code, so the refusal of a word that does not decode is never reached. -/
theorem everyStateHasANextState : Obligations.EveryStateHasANextState := by
  unfold Obligations.EveryStateHasANextState
  intro s
  cases hr : s.pins.rst with
  | true => exact ⟨_, step_reset s hr⟩
  | false =>
    obtain ⟨t, ht⟩ := exec_answers s.phase.instr s
    exact ⟨t.nextTick, step_next_of_exec hr ht⟩

end Sys2Proof.Machine
end

section
/-! The frame of every operation and step: the parameters and the environment are read and never written
(spec/10_state.md R27). -/

namespace Sys2Proof.Machine

/-- The parameters, the inputs, the schedule and the tick number of two states are the same. -/
def SameEnvironment (s t : State) : Prop :=
  t.params = s.params ∧ t.pins = s.pins ∧ t.schedule = s.schedule ∧ t.tick = s.tick

theorem sameEnvironment_refl (s : State) : SameEnvironment s s := ⟨rfl, rfl, rfl, rfl⟩

theorem sameEnvironment_goto (s : State) (p : Phase) : SameEnvironment s (s.goto p) := ⟨rfl, rfl, rfl, rfl⟩

theorem sameEnvironment_stay (s : State) : SameEnvironment s s.stay := ⟨rfl, rfl, rfl, rfl⟩

theorem sameEnvironment_complete (s : State) (k : ResultKind) : SameEnvironment s (s.complete k) :=
  ⟨rfl, rfl, rfl, rfl⟩

theorem sameEnvironment_clearDone (s : State) : SameEnvironment s s.clearDone := ⟨rfl, rfl, rfl, rfl⟩

theorem sameEnvironment_acceptRead (s : State) (v : Variant) : SameEnvironment s (s.acceptRead v) :=
  ⟨rfl, rfl, rfl, rfl⟩

theorem sameEnvironment_ite {s a b : State} {c : Prop} [Decidable c] (ha : SameEnvironment s a)
    (hb : SameEnvironment s b) : SameEnvironment s (if c then a else b) := by
  split
  · exact ha
  · exact hb

theorem sameEnvironment_bitComplete (s : State) : SameEnvironment s s.bitComplete :=
  sameEnvironment_ite (sameEnvironment_ite ⟨rfl, rfl, rfl, rfl⟩ ⟨rfl, rfl, rfl, rfl⟩) ⟨rfl, rfl, rfl, rfl⟩

theorem execNop_sameEnvironment {s t : State} (h : execNop s = .next t) : SameEnvironment s t := by
  obtain rfl := next_injective h
  exact sameEnvironment_ite (sameEnvironment_clearDone s) (sameEnvironment_refl s)

theorem execReadA_sameEnvironment {s t : State} (h : execReadA s = .next t) : SameEnvironment s t := by
  obtain rfl := next_injective h
  exact sameEnvironment_ite (sameEnvironment_acceptRead s _) (sameEnvironment_refl s)

theorem execReadB_sameEnvironment {s t : State} (h : execReadB s = .next t) : SameEnvironment s t := by
  obtain rfl := next_injective h
  exact sameEnvironment_ite (sameEnvironment_acceptRead s _) (sameEnvironment_refl s)

/-- `IDLE` is a command performed after `done <- 0`, and neither touches the environment. -/
theorem execIdle_sameEnvironment {s t : State} (h : execIdle s = .next t) : SameEnvironment s t := by
  have key : SameEnvironment s.clearDone t := by
    unfold execIdle at h
    split at h
    · exact execNop_sameEnvironment h
    · exact execReadA_sameEnvironment h
    · exact execReadB_sameEnvironment h
  exact key

/-- No operation, in whatever state it is performed, writes the parameters or the environment. -/
theorem exec_sameEnvironment {i : Instr} {s t : State} (h : exec i s = .next t) : SameEnvironment s t := by
  have goto := sameEnvironment_goto s
  have stay := sameEnvironment_stay s
  have complete := sameEnvironment_complete s
  cases i with
  | nop => exact execNop_sameEnvironment h
  | readA => exact execReadA_sameEnvironment h
  | readB => exact execReadB_sameEnvironment h
  | idle => exact execIdle_sameEnvironment h
  | hsLow => obtain rfl := next_injective h; exact sameEnvironment_ite (goto _) stay
  | hsHigh => obtain rfl := next_injective h; exact sameEnvironment_ite (goto _) stay
  | hsWait1 =>
    obtain rfl := next_injective h
    refine sameEnvironment_ite ?_ stay
    cases lineSample s with
    | high => exact sameEnvironment_goto (s.setResponse .failure) _
    | low => exact goto _
  | hsWait2 =>
    obtain rfl := next_injective h
    exact sameEnvironment_ite (sameEnvironment_goto (s.setResponse _) _) stay
  | hsRelease =>
    obtain rfl := next_injective h
    cases lineSample s with
    | low => cases s.respOk with
      | success => exact goto _
      | failure => exact complete _
    | high =>
      refine sameEnvironment_ite ?_ stay
      cases s.respOk with
      | success => exact complete _
      | failure => exact complete _
  | bitWaitHigh =>
    obtain rfl := next_injective h
    cases lineSample s with
    | high => exact goto _
    | low => exact sameEnvironment_ite (complete _) stay
  | bitDelay =>
    obtain rfl := next_injective h
    exact sameEnvironment_ite (sameEnvironment_goto (s.shiftBit _) _) stay
  | bitWaitLow =>
    obtain rfl := next_injective h
    cases lineSample s with
    | low => exact sameEnvironment_bitComplete s
    | high => exact sameEnvironment_ite (complete _) stay
  | validate =>
    obtain rfl := next_injective h
    exact sameEnvironment_ite (sameEnvironment_complete s.storeReading _) (complete _)

/-- A step passes the tick of a state that differs in elements of the block only, with reset or without. -/
theorem step_sameEnvironment {s t : State} (h : step s = .next t) : ∃ x, t = x.nextTick ∧ SameEnvironment s x := by
  cases hr : s.pins.rst with
  | true =>
    rw [step_reset s hr] at h
    exact ⟨_, (next_injective h).symm, rfl, rfl, rfl, rfl⟩
  | false =>
    obtain ⟨x, hx⟩ := exec_answers s.phase.instr s
    rw [step_next_of_exec hr hx] at h
    exact ⟨x, (next_injective h).symm, exec_sameEnvironment hx⟩

theorem step_params {s t : State} (h : step s = .next t) : t.params = s.params := by
  obtain ⟨x, rfl, hparams, -⟩ := step_sameEnvironment h
  rw [nextTick_params, hparams]

/-- Settles O48: the frame of every operation, and the tick that follows it. -/
theorem instanceAndInputsAreNotWritten : Obligations.InstanceAndInputsAreNotWritten := by
  unfold Obligations.InstanceAndInputsAreNotWritten
  refine ⟨fun i s t h => exec_sameEnvironment h, fun s t h => ?_⟩
  obtain ⟨x, rfl, hparams, -, hschedule, htick⟩ := step_sameEnvironment h
  simp [hparams, hschedule, htick]

/-! ### The passing of a tick, and the operation a step performs (R11) -/

theorem nextTick_of_scheduled {s : State} {p : Pins} {ps : List Pins} (h : s.schedule = p :: ps) :
    s.nextTick = { s with pins := p, schedule := ps, tick := s.tick + 1 } := by
  simp [State.nextTick, h]

theorem nextTick_of_unscheduled {s : State} (h : s.schedule = []) :
    s.nextTick = { s with pins := Config.freePins (s.tick + 1), tick := s.tick + 1 } := by
  cases s
  simp_all [State.nextTick]

/-- Settles O39: the word of a phase decodes to that phase's operation alone, so `i` is what the step performs. -/
theorem stepRunsTheDecodedOperation : Obligations.StepRunsTheDecodedOperation := by
  unfold Obligations.StepRunsTheDecodedOperation
  intro s t i hdecode _ hrst hexec
  obtain rfl : s.phase.instr = i := Except.ok.inj ((decode_phase_code s.phase).symm.trans hdecode)
  exact ⟨fetch_eq s, step_next_of_exec hrst hexec, fun _ _ => nextTick_of_scheduled, nextTick_of_unscheduled⟩

/-! ### A placed word -/

/-- An operation is a command or the operation of a phase: the two formats of R60. -/
theorem instr_command_or_phase (i : Instr) : (∃ c : Command, c.instr = i) ∨ ∃ p : Phase, p.instr = i := by
  cases i with
  | nop => exact .inl ⟨.nop, rfl⟩
  | readA => exact .inl ⟨.readA, rfl⟩
  | readB => exact .inl ⟨.readB, rfl⟩
  | idle => exact .inr ⟨.idle, rfl⟩
  | hsLow => exact .inr ⟨.hsLow, rfl⟩
  | hsHigh => exact .inr ⟨.hsHigh, rfl⟩
  | hsWait1 => exact .inr ⟨.hsWait1, rfl⟩
  | hsWait2 => exact .inr ⟨.hsWait2, rfl⟩
  | hsRelease => exact .inr ⟨.hsRelease, rfl⟩
  | bitWaitHigh => exact .inr ⟨.bitWaitHigh, rfl⟩
  | bitDelay => exact .inr ⟨.bitDelay, rfl⟩
  | bitWaitLow => exact .inr ⟨.bitWaitLow, rfl⟩
  | validate => exact .inr ⟨.validate, rfl⟩

theorem withFetchWord_phase (s : State) (p : Phase) :
    s.withFetchWord p.instr.format.width (encode p.instr) = s.presentPhase p := by
  cases p <;> rfl

theorem withFetchWord_command (s : State) (c : Command) :
    s.withFetchWord c.instr.format.width (encode c.instr) = s.presentCommand (BitVec.ofNat 2 (encode c.instr)) := by
  cases c <;> rfl

/-- The encoder's word of a command means that command. -/
theorem decodeCommand_encode (c : Command) : decodeCommand (BitVec.ofNat 2 (encode c.instr)) = c := by
  cases c <;> rfl

/-- A command word presented at the pins is the command word that is read from them (R61). -/
theorem commandWord_presentCommand (s : State) (w : BitVec 2) : commandWord (s.presentCommand w).pins = w := by
  have key : ∀ w : BitVec 2, BitVec.ofBool (w.getLsbD 1) ++ (Variant.ofBit (w.extractLsb' 0 1)).bit = w := by decide
  exact key w

/-- In its phase the `IDLE` operation is the operation of the command at the pins: clearing `done` beforehand adds
nothing, as every command of an `IDLE` tick clears it. -/
theorem execIdle_eq_command (s : State) (h : s.phase = .idle) :
    execIdle s = exec (decodeCommand (commandWord s.pins)).instr s := by
  unfold execIdle
  cases decodeCommand (commandWord s.pins) with
  | nop => simp [Command.instr, exec, execNop, h, State.clearDone]
  | readA => simp [Command.instr, exec, execReadA, h, State.clearDone, State.acceptRead]
  | readB => simp [Command.instr, exec, execReadB, h, State.clearDone, State.acceptRead]

/-- Settles O40: a phase word stands in the phase register, a command word at the pins of an `IDLE` tick. -/
theorem placedWordRunsNext : Obligations.PlacedWordRunsNext := by
  unfold Obligations.PlacedWordRunsNext
  intro s t i h
  obtain ⟨c, rfl⟩ | ⟨p, rfl⟩ := instr_command_or_phase i
  · rw [withFetchWord_command] at h ⊢
    refine step_next_of_exec rfl (Eq.trans ?_ h)
    refine (execIdle_eq_command _ rfl).trans ?_
    rw [commandWord_presentCommand, decodeCommand_encode]
  · rw [withFetchWord_phase] at h ⊢
    exact step_next_of_exec rfl h

end Sys2Proof.Machine
end

section
/-! What the operation of one tick can make of a state, its branches grouped by the elements they write, and what
follows for every step: the moves of `phase` and the count of `cnt` (spec/10_state.md R28, R12), the writes of the
Reading (R22), the pulse of `done` (R19) and the invariants (R32). -/

namespace Sys2Proof.Machine

/-! ### The effects of a phase operation -/

/-- The moves of the transition table that write `phase` and `cnt` and nothing else, and ask nothing of `resp_ok`. -/
def plainMoves : List (Phase × Phase) :=
  [(.hsLow, .hsHigh), (.hsHigh, .hsWait1), (.hsWait1, .hsWait2), (.bitWaitHigh, .bitDelay)]

/-- What a tick without reset can make of the elements of `s`: one constructor per set of elements written. -/
inductive Effect (s : State) : State → Prop
  /-- `IDLE` without a command. -/
  | nop (hp : s.phase = .idle) : Effect s s.clearDone
  /-- `IDLE` with a `READ` command. -/
  | accept (hp : s.phase = .idle) : Effect s (s.acceptRead s.pins.variant)
  /-- A busy phase goes on: its condition to end is not met, so `cnt` stays within the phase's bound. -/
  | stay (hbusy : s.phase ≠ .idle) (hvalidate : s.phase ≠ .validate) (hcnt : s.cntInPhase → s.stay.cntInPhase) :
      Effect s s.stay
  /-- A drive has ended, or a wait that decides nothing. -/
  | move (q : Phase) (hq : (s.phase, q) ∈ plainMoves) : Effect s (s.goto q)
  /-- An acknowledgment sample decides the response. -/
  | respond (r : Response) (hp : s.phase = .hsWait1 ∨ s.phase = .hsWait2) :
      Effect s ((s.setResponse r).goto .hsRelease)
  /-- The handshake ended with SUCCESS: the frame decode begins. -/
  | startDecode (hp : s.phase = .hsRelease) (hresp : s.respOk = .success) : Effect s (s.goto .bitWaitHigh)
  /-- A bit is sampled. -/
  | shift (hp : s.phase = .bitDelay) : Effect s ((s.shiftBit s.pins.lineIn).goto .bitWaitLow)
  /-- A bit of an unfinished byte is complete. -/
  | countBit (hp : s.phase = .bitWaitLow) (hbit : s.bitCnt ≠ 7) :
      Effect s { s with bitCnt := s.bitCnt + 1, phase := .bitWaitHigh, cnt := 0 }
  /-- A byte is complete, and it is not the last. -/
  | nextByte (hp : s.phase = .bitWaitLow) (hbyte : s.byteIdx ≠ 4) :
      Effect s
        { s with
          frame := writeByte s.frame s.byteIdx s.sh
          bitCnt := 0
          byteIdx := s.byteIdx + 1
          phase := .bitWaitHigh
          cnt := 0 }
  /-- The last byte is complete. -/
  | lastByte (hp : s.phase = .bitWaitLow) (hbyte : s.byteIdx = 4) :
      Effect s { s with frame := writeByte s.frame s.byteIdx s.sh, bitCnt := 0, phase := .validate, cnt := 0 }
  /-- The read ends without a Reading: a level wait failed, or the checksum of the frame did not match. -/
  | fail (k : ResultKind) (hp : s.phase ∈ [Phase.hsRelease, .bitWaitHigh, .bitWaitLow, .validate])
      (hframe : s.phase = .validate → frameValid s.frame = false) : Effect s (s.complete k)
  /-- The read ends with `OK` and its Reading. -/
  | deliver (hp : s.phase = .validate) (hframe : frameValid s.frame = true) : Effect s (s.storeReading.complete .ok)

/-- Every step without reset has one of these effects, and then the tick passes. -/
theorem step_effect {s t : State} (hr : s.pins.rst = false) (h : step s = .next t) :
    ∃ x, Effect s x ∧ t = x.nextTick := by
  obtain ⟨x, rfl, hx⟩ := step_cases hr h
  refine ⟨x, ?_, rfl⟩
  have stays {p : Phase} (hp : s.phase = p) (hidle : p ≠ .idle) (hvalidate : p ≠ .validate)
      (hcnt : s.cntInPhase → s.stay.cntInPhase) : Effect s s.stay :=
    .stay (hp ▸ hidle) (hp ▸ hvalidate) hcnt
  have below {n : Nat} (hne : s.cnt + 1 ≠ n) (hlt : s.cnt < n) : s.cnt + 1 < n := by omega
  -- `IDLE`, `HS_LOW`, `HS_HIGH`
  obtain ⟨hp, -, rfl⟩ | ⟨hp, -, rfl⟩ | ⟨hp, -, rfl⟩ | ⟨hp, hc, rfl⟩ | ⟨hp, -, rfl⟩ | ⟨hp, hc, rfl⟩ | hx := hx
  · exact .nop hp
  · exact .accept hp
  · exact .move _ (by simp [hp, plainMoves])
  · exact stays hp (by decide) (by decide) (by simpa [State.cntInPhase, hp] using below hc)
  · exact .move _ (by simp [hp, plainMoves])
  · exact stays hp (by decide) (by decide) (by simpa [State.cntInPhase, hp] using below hc)
  -- `HS_WAIT1`, `HS_WAIT2`
  obtain ⟨hp, -, -, rfl⟩ | ⟨hp, -, -, rfl⟩ | ⟨hp, hc, rfl⟩ | ⟨hp, -, rfl⟩ | ⟨hp, hc, rfl⟩ | hx := hx
  · exact .respond _ (.inl hp)
  · exact .move _ (by simp [hp, plainMoves])
  · exact stays hp (by decide) (by decide) (by simpa [State.cntInPhase, hp] using fun h => Nat.lt_of_le_of_ne h hc)
  · exact .respond _ (.inr hp)
  · exact stays hp (by decide) (by decide) (by simpa [State.cntInPhase, hp] using below hc)
  -- `HS_RELEASE`
  obtain ⟨hp, -, hresp, rfl⟩ | ⟨hp, -, -, rfl⟩ | ⟨hp, -, -, -, rfl⟩ | ⟨hp, -, -, -, rfl⟩ | ⟨hp, -, hc, rfl⟩ | hx := hx
  · exact .startDecode hp hresp
  · exact .fail _ (by simp [hp]) (by simp [hp])
  · exact .fail _ (by simp [hp]) (by simp [hp])
  · exact .fail _ (by simp [hp]) (by simp [hp])
  · exact stays hp (by decide) (by decide) (by simpa [State.cntInPhase, hp] using below hc)
  -- `BIT_WAIT_HIGH`, `BIT_DELAY`
  obtain ⟨hp, -, rfl⟩ | ⟨hp, -, -, rfl⟩ | ⟨hp, -, hc, rfl⟩ | ⟨hp, -, rfl⟩ | ⟨hp, hc, rfl⟩ | hx := hx
  · exact .move _ (by simp [hp, plainMoves])
  · exact .fail _ (by simp [hp]) (by simp [hp])
  · exact stays hp (by decide) (by decide) (by simpa [State.cntInPhase, hp] using below hc)
  · exact .shift hp
  · exact stays hp (by decide) (by decide) (by simpa [State.cntInPhase, hp] using below hc)
  -- `BIT_WAIT_LOW`
  obtain ⟨hp, -, hbit, rfl⟩ | ⟨hp, -, -, hbyte, rfl⟩ | ⟨hp, -, -, hbyte, rfl⟩ | ⟨hp, -, -, rfl⟩ |
    ⟨hp, -, hc, rfl⟩ | hx := hx
  · exact .countBit hp hbit
  · exact .nextByte hp hbyte
  · exact .lastByte hp hbyte
  · exact .fail _ (by simp [hp]) (by simp [hp])
  · exact stays hp (by decide) (by decide) (by simpa [State.cntInPhase, hp] using below hc)
  -- `VALIDATE`
  obtain ⟨hp, hframe, rfl⟩ | ⟨hp, hframe, rfl⟩ := hx
  · exact .deliver hp hframe
  · exact .fail _ (by simp [hp]) (fun _ => hframe)

/-! ### The moves of the sequencer and the timer (R28, R12) -/

/-- The fifteen moves of R28's transition table. -/
def phaseMoves : List (Phase × Phase) :=
  [(.idle, .hsLow), (.hsLow, .hsHigh), (.hsHigh, .hsWait1), (.hsWait1, .hsWait2), (.hsWait1, .hsRelease),
   (.hsWait2, .hsRelease), (.hsRelease, .bitWaitHigh), (.hsRelease, .idle), (.bitWaitHigh, .bitDelay),
   (.bitWaitHigh, .idle), (.bitDelay, .bitWaitLow), (.bitWaitLow, .bitWaitHigh), (.bitWaitLow, .validate),
   (.bitWaitLow, .idle), (.validate, .idle)]

theorem plainMoves_subset : plainMoves ⊆ phaseMoves := by decide

/-- No move of the table leads from a phase to itself. -/
theorem phaseMoves_ne {p q : Phase} (h : (p, q) ∈ phaseMoves) : q ≠ p := by
  have key : ∀ m ∈ phaseMoves, m.2 ≠ m.1 := by decide
  exact key _ h

/-- A step idles, stays in a busy phase and counts, or makes a move of the table and clears the count. -/
theorem Effect.phase_cnt {s x : State} (h : Effect s x) :
    (s.phase = .idle ∧ x.phase = .idle ∧ x.cnt = s.cnt) ∨
    (s.phase ≠ .idle ∧ x.phase = s.phase ∧ x.cnt = s.cnt + 1) ∨
    ((s.phase, x.phase) ∈ phaseMoves ∧ x.cnt = 0) := by
  cases h with
  | nop hp => exact .inl ⟨hp, hp, rfl⟩
  | stay hbusy _ _ => exact .inr (.inl ⟨hbusy, rfl, rfl⟩)
  | accept hp => exact .inr (.inr ⟨by simp [hp, phaseMoves], rfl⟩)
  | move q hq => exact .inr (.inr ⟨plainMoves_subset hq, rfl⟩)
  | respond r hp => exact .inr (.inr ⟨by rcases hp with hp | hp <;> simp [hp, phaseMoves], rfl⟩)
  | startDecode hp _ => exact .inr (.inr ⟨by simp [hp, phaseMoves], rfl⟩)
  | shift hp => exact .inr (.inr ⟨by simp [hp, phaseMoves], rfl⟩)
  | countBit hp _ => exact .inr (.inr ⟨by simp [hp, phaseMoves], rfl⟩)
  | nextByte hp _ => exact .inr (.inr ⟨by simp [hp, phaseMoves], rfl⟩)
  | lastByte hp _ => exact .inr (.inr ⟨by simp [hp, phaseMoves], rfl⟩)
  | fail k hp _ =>
    have key : ∀ p ∈ [Phase.hsRelease, .bitWaitHigh, .bitWaitLow, .validate], (p, Phase.idle) ∈ phaseMoves := by decide
    exact .inr (.inr ⟨key _ hp, rfl⟩)
  | deliver hp _ => exact .inr (.inr ⟨by simp [hp, phaseMoves], rfl⟩)

/-- Settles O45, by the three cases of `Effect.phase_cnt`. -/
theorem phasesFollowTheTable : Obligations.PhasesFollowTheTable := by
  unfold Obligations.PhasesFollowTheTable
  intro s t hr h
  obtain ⟨x, hx, rfl⟩ := step_effect hr h
  rw [nextTick_phase, nextTick_cnt]
  obtain ⟨hidle, hphase, hcnt⟩ | ⟨hbusy, hphase, hcnt⟩ | ⟨hmove, hcnt⟩ := hx.phase_cnt
  · exact ⟨.inl (hphase.trans hidle.symm), fun hne => absurd (hphase.trans hidle.symm) hne,
      fun _ hne => absurd hidle hne, fun _ _ => hcnt⟩
  · exact ⟨.inl hphase, fun hne => absurd hphase hne, fun _ _ => hcnt, fun _ hidle => absurd hidle hbusy⟩
  · have hne := phaseMoves_ne hmove
    exact ⟨.inr hmove, fun _ => hcnt, fun hphase => absurd hphase hne, fun hphase => absurd hphase hne⟩

/-! ### The Reading and the end of a read (R22, R19) -/

/-- Every step but the delivery of a valid frame keeps the Reading and its flag. -/
theorem Effect.reading {s x : State} (h : Effect s x) :
    (s.phase = .validate ∧ frameValid s.frame = true ∧ x = s.storeReading.complete .ok) ∨
    (¬(s.phase = .validate ∧ frameValid s.frame = true) ∧
      x.humRaw = s.humRaw ∧ x.tempRaw = s.tempRaw ∧ x.readingValid = s.readingValid) := by
  cases h with
  | deliver hp hframe => exact .inl ⟨hp, hframe, rfl⟩
  | fail k hp hframe => exact .inr ⟨fun ⟨hv, hgood⟩ => by simp [hframe hv] at hgood, rfl, rfl, rfl⟩
  | move q hq =>
    have key : ∀ m ∈ plainMoves, m.1 ≠ .validate := by decide
    exact .inr ⟨fun hv => key _ hq hv.1, rfl, rfl, rfl⟩
  | stay _ hvalidate _ => exact .inr ⟨fun hv => hvalidate hv.1, rfl, rfl, rfl⟩
  | respond r hp => exact .inr ⟨by rcases hp with hp | hp <;> simp [hp], rfl, rfl, rfl⟩
  | nop hp | accept hp | startDecode hp _ | shift hp | countBit hp _ | nextByte hp _ | lastByte hp _ =>
    exact .inr ⟨by simp [hp], rfl, rfl, rfl⟩

/-- Settles O42, by the two cases of `Effect.reading`: the decimal outputs are functions of the Reading. -/
theorem onlyAGoodFrameChangesTheReading : Obligations.OnlyAGoodFrameChangesTheReading := by
  unfold Obligations.OnlyAGoodFrameChangesTheReading
  intro s t hr h
  obtain ⟨x, hx, rfl⟩ := step_effect hr h
  obtain ⟨hp, hframe, rfl⟩ | ⟨hno, hhum, htemp, hvalid⟩ := hx.reading
  · refine ⟨fun _ => ?_, fun hno => absurd ⟨hp, hframe⟩ hno⟩
    simp [humidityOf, temperatureOf, rawReading, ResultKind.status]
  · exact ⟨fun hgood => absurd hgood hno, fun _ => by simp [outputs, hhum, htemp, hvalid]⟩

/-- `done` is 1 after a step from a state in which only `IDLE` shows it exactly when that step ended a read. -/
theorem Effect.done_iff {s x : State} (h : Effect s x) (hdone : s.phase ≠ .idle → s.done = false) :
    x.done = true ↔ s.phase ≠ .idle ∧ x.phase = .idle := by
  cases h with
  | nop hp | accept hp => simp [hp]
  | fail k hp _ =>
    have hbusy : s.phase ≠ .idle := fun h => by simp [h] at hp
    simp [hbusy]
  | deliver hp _ => simp [hp]
  | stay hbusy _ _ => simp [hbusy, hdone]
  | move q hq =>
    have key : ∀ m ∈ plainMoves, m.1 ≠ .idle ∧ m.2 ≠ .idle := by decide
    obtain ⟨hbusy, hq'⟩ := key _ hq
    simp [hdone hbusy, hq']
  | respond r hp =>
    have hbusy : s.phase ≠ .idle := by rcases hp with hp | hp <;> simp [hp]
    simp [hdone hbusy]
  | startDecode hp _ | shift hp | countBit hp _ | nextByte hp _ | lastByte hp _ => simp [hdone, hp]

/-- Only `IDLE` shows `done`. -/
theorem done_of_busy {s : State} (hinv : s.Inv) (hbusy : s.phase ≠ .idle) : s.done = false := by
  by_contra hdone
  exact hbusy (hinv.done_idle (by simpa using hdone)).1

/-- Settles O43: a `done` of 1 stands in `IDLE`, and no step from `IDLE` ends a read. -/
theorem doneIsAOneTickPulse : Obligations.DoneIsAOneTickPulse := by
  unfold Obligations.DoneIsAOneTickPulse
  intro s t hinv hr h
  obtain ⟨x, hx, rfl⟩ := step_effect hr h
  have key := hx.done_iff (done_of_busy hinv)
  rw [nextTick_done, nextTick_phase]
  refine ⟨key, fun hdone => ?_⟩
  have hidle := (hinv.done_idle hdone).1
  simpa [hidle] using key

end Sys2Proof.Machine
end

section
/-! The invariants of spec/10_state.md R32: they speak of the block alone, the reset state meets them, every step keeps
them, and with them every reachable state; and the bound of `cnt` that they give (R12). -/

namespace Sys2Proof.Machine

/-! ### The invariants and the block -/

/-- The invariants do not look at the environment. -/
theorem inv_of_block_eq {s t : State} (h : s.block = t.block) (ht : t.Inv) : s.Inv := by
  have key : ∀ u : State, u.Inv ↔ u.block.Inv := fun u =>
    ⟨fun ⟨h1, h2, h3, h4, h5, h6, h7⟩ => ⟨h1, h2, h3, h4, h5, h6, h7⟩,
      fun ⟨h1, h2, h3, h4, h5, h6, h7⟩ => ⟨h1, h2, h3, h4, h5, h6, h7⟩⟩
  rw [key, h, ← key]
  exact ht

/-- The reset elements meet the invariants for every choice of durations of at least 1. -/
theorem inv_reset_of_positive {p : Params} (hp : p.positive = true) : ({ State.reset with params := p } : State).Inv where
  params_positive := hp
  cnt_in_phase := rfl
  done_idle := by simp [State.reset]
  none_not_valid := fun _ => rfl
  not_valid_zero := fun _ => ⟨rfl, rfl⟩
  validate_position := by simp [State.reset]
  decoding_success := by simp [State.reset, State.decoding]

theorem inv_of_isReset {s : State} (h : s.isReset) (hp : s.params.positive = true) : s.Inv :=
  inv_of_block_eq (t := { State.reset with params := s.params }) h (inv_reset_of_positive hp)

theorem isReset_after_reset (s : State) : s.resetBlock.nextTick.isReset := by
  rw [State.isReset, block_nextTick, nextTick_params]
  rfl

/-- Settles O35: the parameters of this hardware are among the positive ones. -/
theorem resetMeetsTheInvariant : Obligations.ResetMeetsTheInvariant := by
  unfold Obligations.ResetMeetsTheInvariant
  exact ⟨inv_reset_of_positive (by decide), fun s h hp => inv_of_isReset h hp⟩

/-! ### Every step keeps the invariants -/

theorem holdTime_pos {p : Params} (hp : p.positive = true) (v : Variant) : 0 < holdTime p v := by
  simp only [Params.positive, decide_eq_true_eq] at hp
  cases v <;> simp only [holdTime] <;> omega

/-- A phase that has just begun is within its bound. -/
theorem cntInPhase_of_zero {s : State} (hp : s.params.positive = true) (hc : s.cnt = 0) : s.cntInPhase := by
  have hhold := holdTime_pos hp s.variantQ
  simp only [Params.positive, decide_eq_true_eq] at hp
  unfold State.cntInPhase
  split <;> omega

theorem Effect.params_eq {s x : State} (h : Effect s x) : x.params = s.params := by
  cases h <;> rfl

theorem Effect.cntInPhase {s x : State} (h : Effect s x) (hp : s.params.positive = true) (hc : s.cntInPhase) :
    x.cntInPhase := by
  cases h with
  | nop _ => exact hc
  | stay _ _ hcnt => exact hcnt hc
  | _ => exact cntInPhase_of_zero hp rfl

/-- A step that ends a read leaves a status. -/
theorem Effect.status_of_end {s x : State} (h : Effect s x) (hbusy : s.phase ≠ .idle) (hidle : x.phase = .idle) :
    x.status ≠ .none := by
  cases h with
  | fail k _ _ => exact resultKind_status_ne_none k
  | deliver _ _ => exact resultKind_status_ne_none .ok
  | nop hp => exact absurd hp hbusy
  | stay _ _ _ => exact absurd hidle hbusy
  | move q hq =>
    have key : ∀ m ∈ plainMoves, m.2 ≠ .idle := by decide
    exact absurd hidle (key _ hq)
  | _ => cases hidle

/-- `status` is `NONE` after a step only if it was before, and then the step stored no Reading. -/
theorem Effect.status_none {s x : State} (h : Effect s x) (hnone : x.status = .none) :
    s.status = .none ∧ x.readingValid = s.readingValid := by
  cases h with
  | fail k _ _ => exact absurd hnone (resultKind_status_ne_none k)
  | deliver _ _ => exact absurd hnone (resultKind_status_ne_none .ok)
  | _ => exact ⟨hnone, rfl⟩

/-- The Reading is 0 until one is stored. -/
theorem Effect.not_valid_zero {s x : State} (h : Effect s x)
    (hzero : s.readingValid = false → s.humRaw = 0 ∧ s.tempRaw = 0) (hx : x.readingValid = false) :
    x.humRaw = 0 ∧ x.tempRaw = 0 := by
  obtain ⟨-, -, rfl⟩ | ⟨-, hhum, htemp, hvalid⟩ := h.reading
  · simp at hx
  · rw [hhum, htemp]
    exact hzero (hvalid ▸ hx)

/-- `VALIDATE` is entered with the last byte and lasts one tick. -/
theorem Effect.validate_position {s x : State} (h : Effect s x) (hx : x.phase = .validate) :
    x.byteIdx = 4 ∧ x.bitCnt = 0 := by
  cases h with
  | lastByte _ hbyte => exact ⟨hbyte, rfl⟩
  | nop hp => simp [hp] at hx
  | stay _ hvalidate _ => exact absurd hx hvalidate
  | move q hq =>
    have key : ∀ m ∈ plainMoves, m.2 ≠ .validate := by decide
    exact absurd hx (key _ hq)
  | _ => cases hx

/-- A plain move into the frame decode is one within it. -/
theorem decoding_of_plainMove {s : State} {q : Phase} (hq : (s.phase, q) ∈ plainMoves) (h : (s.goto q).decoding) :
    s.decoding := by
  have key : ∀ m ∈ plainMoves, m.2 = .bitWaitHigh ∨ m.2 = .bitDelay ∨ m.2 = .bitWaitLow → m.1 = .bitWaitHigh := by
    decide
  exact .inl (key _ hq h)

/-- The frame decode is entered on SUCCESS, and no step of it writes the response. -/
theorem Effect.decoding_success {s x : State} (h : Effect s x) (hs : s.decoding → s.respOk = .success)
    (hx : x.decoding) : x.respOk = .success := by
  cases h with
  | startDecode _ hresp => exact hresp
  | stay _ _ _ => exact hs hx
  | shift hp => exact hs (.inr (.inl hp))
  | countBit hp _ | nextByte hp _ => exact hs (.inr (.inr hp))
  | move q hq => exact hs (decoding_of_plainMove hq hx)
  | nop hp => simp [State.decoding, hp] at hx
  | _ => simp [State.decoding] at hx

theorem Effect.keeps_inv {s x : State} (h : Effect s x) (hinv : s.Inv) : x.Inv where
  params_positive := h.params_eq ▸ hinv.params_positive
  cnt_in_phase := h.cntInPhase hinv.params_positive hinv.cnt_in_phase
  done_idle := fun hdone =>
    have ⟨hbusy, hidle⟩ := (h.done_iff (done_of_busy hinv)).mp hdone
    ⟨hidle, h.status_of_end hbusy hidle⟩
  none_not_valid := fun hnone =>
    have ⟨hwas, hvalid⟩ := h.status_none hnone
    hvalid.trans (hinv.none_not_valid hwas)
  not_valid_zero := h.not_valid_zero hinv.not_valid_zero
  validate_position := h.validate_position
  decoding_success := h.decoding_success hinv.decoding_success

/-- Settles O34: a reset leads to the reset elements, any other step has one of the effects. -/
theorem invariantIsKept : Obligations.InvariantIsKept := by
  unfold Obligations.InvariantIsKept
  intro s t hinv h
  cases hr : s.pins.rst with
  | true =>
    rw [step_reset s hr] at h
    obtain rfl := next_injective h
    exact inv_of_isReset (isReset_after_reset s) (by simpa using hinv.params_positive)
  | false =>
    obtain ⟨x, hx, rfl⟩ := step_effect hr h
    exact inv_of_block_eq (block_nextTick x) (hx.keeps_inv hinv)

/-- Settles O36, by induction on the steps from the reset state. -/
theorem reachableStatesMeetTheInvariant : Obligations.ReachableStatesMeetTheInvariant := by
  unfold Obligations.ReachableStatesMeetTheInvariant
  intro s h
  induction h with
  | start s hs => exact inv_of_isReset hs
  | tick s t _ hstep ih => exact fun hp => invariantIsKept s t (ih (step_params hstep ▸ hp)) hstep

/-! ### The counter (R12, R173) -/

/-- The most ticks that any phase of a read can last. -/
def longestPhase (p : Params) : Nat :=
  max p.tHoldA (max p.tHoldB (max p.tTimeout (max (p.tAck1 + 1) (max p.tAck2 (max p.tBit p.tReady)))))

theorem holdTime_le_longestPhase (p : Params) (v : Variant) : holdTime p v ≤ longestPhase p := by
  cases v <;> simp only [holdTime, longestPhase] <;> omega

theorem cnt_lt_longestPhase {s : State} (h : s.cntInPhase) : s.cnt + 1 ≤ longestPhase s.params := by
  have hhold := holdTime_le_longestPhase s.params s.variantQ
  unfold State.cntInPhase at h
  unfold longestPhase at hhold ⊢
  split at h <;> omega

/-- Durations of at most 65535 make phases of at most 65536 ticks: `HS_WAIT1` lasts one tick more than `T_ACK1`. -/
theorem longestPhase_of_fitCounter {p : Params} (h : p.fitCounter = true) : longestPhase p ≤ 65536 := by
  simp only [Params.fitCounter, fitsCounter, Bool.and_eq_true, decide_eq_true_eq] at h
  unfold longestPhase
  omega

/-- Settles O37, by the longest phase of a read: 18000 ticks on this hardware. -/
theorem counterNeverOverflows : Obligations.CounterNeverOverflows := by
  unfold Obligations.CounterNeverOverflows
  intro s hinv
  have hcnt := cnt_lt_longestPhase hinv.cnt_in_phase
  refine ⟨hcnt, fun hparams => ?_, fun hfit => ?_⟩
  · have hlongest : longestPhase Params.thisHardware = 18000 := by decide
    rw [hparams, hlongest] at hcnt
    omega
  · have := longestPhase_of_fitCounter hfit
    omega

/-! ### The bytes not yet received (R16, R107) -/

/-- In the handshake the transient registers are clear, and in the decode every byte not yet received is 0. -/
def State.UnreceivedZero (s : State) : Prop :=
  (s.handshaking → s.byteIdx = 0 ∧ s.bitCnt = 0 ∧ s.sh = 0 ∧ ∀ i, readByte s.frame i = 0) ∧
  (s.decoding → ∀ i, s.byteIdx ≤ i → readByte s.frame i = 0)

@[simp] theorem readByte_clearedFrame (i : ByteIdx) : readByte clearedFrame i = 0 := by
  fin_cases i <;> rfl

/-- A plain move into a phase of the handshake is one within it. -/
theorem handshaking_of_plainMove {s : State} {q : Phase} (hq : (s.phase, q) ∈ plainMoves)
    (h : (s.goto q).handshaking) : s.handshaking := by
  have key : ∀ m ∈ plainMoves, m.2 = .hsLow ∨ m.2 = .hsHigh ∨ m.2 = .hsWait1 ∨ m.2 = .hsWait2 ∨ m.2 = .hsRelease →
      m.1 = .hsLow ∨ m.1 = .hsHigh ∨ m.1 = .hsWait1 ∨ m.1 = .hsWait2 ∨ m.1 = .hsRelease := by decide
  exact key _ hq h

/-- A phase outside the handshake and the frame decode asks nothing of the transient registers. -/
theorem unreceivedZero_of_phase {s : State} (h : s.phase = .idle ∨ s.phase = .validate) : s.UnreceivedZero := by
  obtain h | h := h <;> simp [State.UnreceivedZero, State.handshaking, State.decoding, h]

/-- In a phase of the frame decode only the frame is constrained. -/
theorem unreceivedZero_of_decoding {s : State} (h : s.decoding) (hz : ∀ i, s.byteIdx ≤ i → readByte s.frame i = 0) :
    s.UnreceivedZero := by
  refine ⟨fun hs => ?_, fun _ => hz⟩
  obtain hp | hp | hp := h <;> simp [State.handshaking, hp] at hs

/-- Storing the byte at `byte_idx` leaves those above it as they were. -/
theorem readByte_after_store {f : RawFrame} {k i : ByteIdx} (b : Byte) (hk : k ≠ 4)
    (hz : ∀ j, k ≤ j → readByte f j = 0) (hi : k + 1 ≤ i) : readByte (writeByte f k b) i = 0 := by
  have succ_le : ∀ k i : ByteIdx, k ≠ 4 → k + 1 ≤ i → k < i := by decide
  have hlt := succ_le k i hk hi
  rw [readByte_writeByte_other f k i b hlt.ne']
  exact hz i hlt.le

theorem Effect.keeps_unreceivedZero {s x : State} (h : Effect s x) (hz : s.UnreceivedZero) : x.UnreceivedZero := by
  obtain ⟨hhandshake, hdecode⟩ := hz
  cases h with
  | nop hp => exact unreceivedZero_of_phase (.inl hp)
  | accept _ => simp [State.UnreceivedZero, State.decoding]
  | stay _ _ _ => exact ⟨hhandshake, hdecode⟩
  | move q hq => exact ⟨fun h => hhandshake (handshaking_of_plainMove hq h), fun h => hdecode (decoding_of_plainMove hq h)⟩
  | respond r hp =>
    have hs : s.handshaking := by rcases hp with hp | hp <;> simp [State.handshaking, hp]
    exact ⟨fun _ => hhandshake hs, by simp [State.decoding]⟩
  | startDecode hp _ =>
    obtain ⟨-, -, -, hframe⟩ := hhandshake (by simp [State.handshaking, hp])
    exact unreceivedZero_of_decoding (.inl rfl) fun i _ => hframe i
  | shift hp => exact unreceivedZero_of_decoding (.inr (.inr rfl)) (hdecode (.inr (.inl hp)))
  | countBit hp _ => exact unreceivedZero_of_decoding (.inl rfl) (hdecode (.inr (.inr hp)))
  | nextByte hp hbyte =>
    exact unreceivedZero_of_decoding (.inl rfl) fun i => readByte_after_store s.sh hbyte (hdecode (.inr (.inr hp)))
  | lastByte _ _ => exact unreceivedZero_of_phase (.inr rfl)
  | fail _ _ _ => exact unreceivedZero_of_phase (.inl rfl)
  | deliver _ _ => exact unreceivedZero_of_phase (.inl rfl)

/-- Settles O27: a reset leads to `IDLE`, any other step has one of the effects. -/
theorem unreceivedBytesAreZero : Obligations.UnreceivedBytesAreZero := by
  unfold Obligations.UnreceivedBytesAreZero
  intro s t hhandshake hdecode h
  cases hr : s.pins.rst with
  | true =>
    rw [step_reset s hr] at h
    obtain rfl := next_injective h
    exact unreceivedZero_of_phase (.inl (nextTick_phase _))
  | false =>
    obtain ⟨x, hx, rfl⟩ := step_effect hr h
    have key := hx.keeps_unreceivedZero ⟨hhandshake, hdecode⟩
    simpa [State.UnreceivedZero, State.handshaking, State.decoding] using key

end Sys2Proof.Machine
end

section
/-! The outputs (spec/10_state.md R23, R26), and two blocks side by side: what makes two reads agree and keeps them in
agreement (R29, spec/40_command.md R88). -/

namespace Sys2Proof.Machine

/-! ### The outputs -/

theorem busy_eq_false_iff (s : State) : busy s = false ↔ s.phase = .idle := by
  simp [busy]

theorem lineOe_eq_output_iff (s : State) : lineOe s = .output ↔ s.phase = .hsLow ∨ s.phase = .hsHigh := by
  unfold lineOe
  cases s.phase <;> decide

theorem lineOut_eq_low_iff (s : State) : lineOut s = .low ↔ s.phase = .hsLow := by
  unfold lineOut
  cases s.phase <;> decide

/-- The outputs do not look at the environment. -/
theorem outputs_block (s : State) : outputs s.block = outputs s := rfl

/-- Settles O52: equal blocks show equal outputs because the outputs of a state are those of its block. -/
theorem outputsFollowTheState : Obligations.OutputsFollowTheState := by
  unfold Obligations.OutputsFollowTheState
  refine ⟨fun s => ?_, fun s t h => ?_⟩
  · exact ⟨busy_eq_false_iff s, lineOe_eq_output_iff s, lineOut_eq_low_iff s, rfl, rfl, rfl, rfl, rfl⟩
  · rw [← outputs_block s, h, outputs_block]

/-! ### Operations on two states at the same place of a read -/

theorem SameRead.goto {s t : State} (h : SameRead s t) (p : Phase) : SameRead (s.goto p) (t.goto p) := by
  obtain ⟨-, -, hrest⟩ := h
  exact ⟨rfl, rfl, hrest⟩

theorem SameRead.stay {s t : State} (h : SameRead s t) : SameRead s.stay t.stay := by
  obtain ⟨hphase, hcnt, hrest⟩ := h
  exact ⟨hphase, congrArg (· + 1) hcnt, hrest⟩

theorem SameRead.complete {s t : State} (h : SameRead s t) (k : ResultKind) :
    SameRead (s.complete k) (t.complete k) := by
  obtain ⟨-, -, hrest⟩ := h
  exact ⟨rfl, rfl, hrest⟩

theorem SameRead.setResponse {s t : State} (h : SameRead s t) (r : Response) :
    SameRead (s.setResponse r) (t.setResponse r) := by
  obtain ⟨hphase, hcnt, hbyte, hbit, hsh, hframe, hvariant, -, hparams⟩ := h
  exact ⟨hphase, hcnt, hbyte, hbit, hsh, hframe, hvariant, rfl, hparams⟩

theorem SameRead.shiftBit {s t : State} (h : SameRead s t) (b : Level) : SameRead (s.shiftBit b) (t.shiftBit b) := by
  obtain ⟨hphase, hcnt, hbyte, hbit, hsh, hrest⟩ := h
  exact ⟨hphase, hcnt, hbyte, hbit, congrArg (shiftIn · b) hsh, hrest⟩

theorem SameRead.storeByte {s t : State} (h : SameRead s t) : SameRead s.storeByte t.storeByte := by
  obtain ⟨hphase, hcnt, hbyte, -, hsh, hframe, hrest⟩ := h
  exact ⟨hphase, hcnt, hbyte, rfl, hsh, by simp [hframe, hbyte, hsh], hrest⟩

/-- The results of a read are no part of the agreement. -/
theorem SameRead.storeReading {s t : State} (h : SameRead s t) : SameRead s.storeReading t.storeReading := h

theorem SameRead.clearDone {s t : State} (h : SameRead s t) : SameRead s.clearDone t.clearDone := h

/-- A command makes two blocks of the same parameters agree, whatever they held. -/
theorem sameRead_acceptRead {s t : State} (h : s.params = t.params) (v : Variant) :
    SameRead (s.acceptRead v) (t.acceptRead v) :=
  ⟨rfl, rfl, rfl, rfl, rfl, rfl, rfl, rfl, h⟩

/-- So does a reset. -/
theorem sameRead_resetBlock {s t : State} (h : s.params = t.params) : SameRead s.resetBlock t.resetBlock :=
  ⟨rfl, rfl, rfl, rfl, rfl, rfl, rfl, rfl, h⟩

theorem SameRead.nextTick {s t : State} (h : SameRead s t) : SameRead s.nextTick t.nextTick := by
  simpa [SameRead] using h

/-- Settles O58, by the `IDLE` step of each block: both are acceptances of one variant. -/
theorem acceptedReadsAgree : Obligations.AcceptedReadsAgree := by
  unfold Obligations.AcceptedReadsAgree
  rintro s1 s2 v ⟨hidle1, hrst1, hstart1, rfl⟩ ⟨hidle2, hrst2, hstart2, hvariant⟩ hparams
  refine ⟨_, _, step_idle_read s1 hrst1 hidle1 hstart1, step_idle_read s2 hrst2 hidle2 hstart2, ?_, by simp, by simp⟩
  rw [hvariant]
  exact (sameRead_acceptRead hparams _).nextTick

/-! ### One tick of a busy phase, in two blocks -/

/-- Two reads have ended alike: with the same status and, when it is `OK`, the same valid Reading. -/
def EndedAlike (s t : State) : Prop :=
  s.done = true ∧ t.done = true ∧ s.status = t.status ∧
    (s.status = .ok → s.readingValid = true ∧ t.readingValid = true ∧ s.humRaw = t.humRaw ∧ s.tempRaw = t.tempRaw)

/-- Two states agree after a tick of a busy phase: they stand at the same place, and if that is the end of the read,
it is the same end. -/
def AgreeAfterTick (s t : State) : Prop :=
  SameRead s t ∧ (s.phase = .idle → EndedAlike s t)

theorem AgreeAfterTick.nextTick {s t : State} (h : AgreeAfterTick s t) : AgreeAfterTick s.nextTick t.nextTick := by
  obtain ⟨hsame, hend⟩ := h
  refine ⟨hsame.nextTick, ?_⟩
  simpa [EndedAlike] using hend

theorem SameRead.agree_goto {s t : State} (h : SameRead s t) {p : Phase} (hp : p ≠ .idle) :
    AgreeAfterTick (s.goto p) (t.goto p) :=
  ⟨h.goto p, fun hidle => absurd hidle hp⟩

theorem SameRead.agree_stay {s t : State} (h : SameRead s t) (hbusy : s.phase ≠ .idle) :
    AgreeAfterTick s.stay t.stay :=
  ⟨h.stay, fun hidle => absurd hidle hbusy⟩

theorem SameRead.agree_fail {s t : State} (h : SameRead s t) {k : ResultKind} (hk : k.status ≠ .ok) :
    AgreeAfterTick (s.complete k) (t.complete k) :=
  ⟨h.complete k, fun _ => ⟨rfl, rfl, rfl, fun hok => absurd hok hk⟩⟩

/-- The Reading of a delivered frame is computed from the frame alone. -/
theorem SameRead.agree_deliver {s t : State} (h : SameRead s t) :
    AgreeAfterTick (s.storeReading.complete .ok) (t.storeReading.complete .ok) := by
  refine ⟨h.storeReading.complete .ok, fun _ => ⟨rfl, rfl, rfl, fun _ => ⟨rfl, rfl, ?_⟩⟩⟩
  obtain ⟨-, -, -, -, -, hframe, -⟩ := h
  exact ⟨congrArg humidityOf hframe, congrArg temperatureOf hframe⟩

/-- A branch taken by both states on one condition. -/
theorem agreeAfterTick_ite {c : Prop} [Decidable c] {s s' t t' : State} (hc : c → AgreeAfterTick s t)
    (hn : ¬c → AgreeAfterTick s' t') : AgreeAfterTick (if c then s else s') (if c then t else t') := by
  split
  · exact hc ‹c›
  · exact hn ‹¬c›

theorem SameRead.agree_bitComplete {s t : State} (h : SameRead s t) : AgreeAfterTick s.bitComplete t.bitComplete := by
  have hlast := h.storeByte.agree_goto (p := .validate) (by decide)
  obtain ⟨-, -, -, -, -, hstored, -⟩ := h.storeByte
  obtain ⟨-, -, hbyte, hbit, hsh, hframe, hrest⟩ := h
  unfold State.bitComplete
  rw [← hbit, ← hbyte]
  refine agreeAfterTick_ite (fun _ => agreeAfterTick_ite (fun _ => ?_) (fun _ => ?_)) (fun _ => ?_)
  · exact hlast
  · exact ⟨⟨rfl, rfl, rfl, rfl, hsh, hstored, hrest⟩, fun hidle => by cases hidle⟩
  · exact ⟨⟨rfl, rfl, rfl, rfl, hsh, hframe, hrest⟩, fun hidle => by cases hidle⟩

/-- Both next states of two ticks agree if the states before the passing of the tick do. -/
theorem agree_of_steps {s1 s2 x1 x2 t1 t2 : State} (h1 : step s1 = .next t1) (h2 : step s2 = .next t2)
    (e1 : step s1 = .next x1.nextTick) (e2 : step s2 = .next x2.nextTick) (h : AgreeAfterTick x1 x2) :
    AgreeAfterTick t1 t2 := by
  obtain rfl := next_injective (h1.symm.trans e1)
  obtain rfl := next_injective (h2.symm.trans e2)
  exact h.nextTick

/-- Two states at the same place of a read, on a busy tick without reset that shows both the same level of the line. -/
theorem SameRead.step_busy {s1 s2 t1 t2 : State} (h : SameRead s1 s2) (hr1 : s1.pins.rst = false)
    (hr2 : s2.pins.rst = false) (hbusy : s1.phase ≠ .idle) (hline : s1.pins.lineIn = s2.pins.lineIn)
    (h1 : step s1 = .next t1) (h2 : step s2 = .next t2) : AgreeAfterTick t1 t2 := by
  have stay := h.agree_stay hbusy
  have goto {p : Phase} (hp : p ≠ .idle) := h.agree_goto hp
  have fail {k : ResultKind} (hk : k.status ≠ .ok) := h.agree_fail hk
  have respond (r : Response) := (h.setResponse r).agree_goto (p := .hsRelease) (by decide)
  have shift (b : Level) := (h.shiftBit b).agree_goto (p := .bitWaitLow) (by decide)
  have store := h.agree_bitComplete
  have deliver := h.agree_deliver
  obtain ⟨hphase, hcnt, -, -, -, hframe, hvariant, hresp, hparams⟩ := h
  obtain ⟨p, hp1⟩ : ∃ p, s1.phase = p := ⟨_, rfl⟩
  have hp2 : s2.phase = p := hphase.symm.trans hp1
  cases p with
  | idle => exact absurd hp1 hbusy
  | hsLow =>
    refine agree_of_steps h1 h2 (step_hsLow s1 hr1 hp1) (step_hsLow s2 hr2 hp2) ?_
    rw [← hcnt, ← hparams, ← hvariant]
    exact agreeAfterTick_ite (fun _ => goto (by decide)) fun _ => stay
  | hsHigh =>
    refine agree_of_steps h1 h2 (step_hsHigh s1 hr1 hp1) (step_hsHigh s2 hr2 hp2) ?_
    rw [← hcnt, ← hparams]
    exact agreeAfterTick_ite (fun _ => goto (by decide)) fun _ => stay
  | hsWait1 =>
    refine agree_of_steps h1 h2 (step_hsWait1 s1 hr1 hp1) (step_hsWait1 s2 hr2 hp2) ?_
    rw [← hcnt, ← hparams, ← hline]
    exact agreeAfterTick_ite (fun _ => agreeAfterTick_ite (fun _ => respond _) fun _ => goto (by decide)) fun _ => stay
  | hsWait2 =>
    refine agree_of_steps h1 h2 (step_hsWait2 s1 hr1 hp1) (step_hsWait2 s2 hr2 hp2) ?_
    rw [← hcnt, ← hparams, ← hline]
    exact agreeAfterTick_ite (fun _ => respond _) fun _ => stay
  | hsRelease =>
    refine agree_of_steps h1 h2 (step_hsRelease s1 hr1 hp1) (step_hsRelease s2 hr2 hp2) ?_
    rw [← hcnt, ← hparams, ← hline, ← hresp]
    refine agreeAfterTick_ite (fun _ => ?_) fun _ => agreeAfterTick_ite (fun _ => ?_) fun _ => stay
    · exact agreeAfterTick_ite (fun _ => goto (by decide)) fun _ => fail (by decide)
    · exact agreeAfterTick_ite (fun _ => fail (by decide)) fun _ => fail (by decide)
  | bitWaitHigh =>
    refine agree_of_steps h1 h2 (step_bitWaitHigh s1 hr1 hp1) (step_bitWaitHigh s2 hr2 hp2) ?_
    rw [← hcnt, ← hparams, ← hline]
    exact agreeAfterTick_ite (fun _ => goto (by decide)) fun _ =>
      agreeAfterTick_ite (fun _ => fail (by decide)) fun _ => stay
  | bitDelay =>
    refine agree_of_steps h1 h2 (step_bitDelay s1 hr1 hp1) (step_bitDelay s2 hr2 hp2) ?_
    rw [← hcnt, ← hparams, ← hline]
    exact agreeAfterTick_ite (fun _ => shift _) fun _ => stay
  | bitWaitLow =>
    refine agree_of_steps h1 h2 (step_bitWaitLow s1 hr1 hp1) (step_bitWaitLow s2 hr2 hp2) ?_
    rw [← hcnt, ← hparams, ← hline]
    exact agreeAfterTick_ite (fun _ => store) fun _ =>
      agreeAfterTick_ite (fun _ => fail (by decide)) fun _ => stay
  | validate =>
    refine agree_of_steps h1 h2 (step_validate s1 hr1 hp1) (step_validate s2 hr2 hp2) ?_
    rw [← hframe]
    exact agreeAfterTick_ite (fun _ => deliver) fun _ => fail (by decide)

/-- Two agreeing `IDLE` blocks under the same command, on a tick without reset. -/
theorem SameRead.step_idle {s1 s2 t1 t2 : State} (h : SameRead s1 s2) (hr1 : s1.pins.rst = false)
    (hr2 : s2.pins.rst = false) (hidle : s1.phase = .idle) (hstart : s1.pins.start = s2.pins.start)
    (hvariant : s1.pins.variant = s2.pins.variant) (h1 : step s1 = .next t1) (h2 : step s2 = .next t2) :
    SameRead t1 t2 := by
  have hidle2 : s2.phase = .idle := h.1.symm.trans hidle
  cases hs : s1.pins.start with
  | false =>
    rw [step_idle_nop s1 hr1 hidle hs] at h1
    rw [step_idle_nop s2 hr2 hidle2 (hstart ▸ hs)] at h2
    rw [← next_injective h1, ← next_injective h2]
    exact h.clearDone.nextTick
  | true =>
    rw [step_idle_read s1 hr1 hidle hs] at h1
    rw [step_idle_read s2 hr2 hidle2 (hstart ▸ hs), ← hvariant] at h2
    rw [← next_injective h1, ← next_injective h2]
    obtain ⟨-, -, -, -, -, -, -, -, hparams⟩ := h
    exact (sameRead_acceptRead hparams _).nextTick

/-- Settles O59, by the tick: a reset, an `IDLE` tick, a tick of a busy phase. -/
theorem agreementOfReadsIsKept : Obligations.AgreementOfReadsIsKept := by
  unfold Obligations.AgreementOfReadsIsKept
  intro s1 s2 t1 t2 h hrst hcommand hline h1 h2
  cases hr : s1.pins.rst with
  | true =>
    rw [step_reset s1 hr] at h1
    rw [step_reset s2 (hrst ▸ hr)] at h2
    obtain ⟨-, -, -, -, -, -, -, -, hparams⟩ := h
    rw [← next_injective h1, ← next_injective h2]
    exact ⟨(sameRead_resetBlock hparams).nextTick, fun hfalse => by cases hfalse⟩
  | false =>
    by_cases hidle : s1.phase = .idle
    · obtain ⟨hstart, hvariant⟩ := hcommand hidle
      exact ⟨h.step_idle hr (hrst ▸ hr) hidle hstart hvariant h1 h2, fun _ hbusy => absurd hidle hbusy⟩
    · obtain ⟨hsame, hend⟩ := h.step_busy hr (hrst ▸ hr) hidle (hline hidle) h1 h2
      exact ⟨hsame, fun _ _ => hend⟩

end Sys2Proof.Machine
end

section
/-! The line (spec/20_memory.md R41, R42, R53): on which steps the block takes it and gives it up, and where a step does
not look at its level. -/

namespace Sys2Proof.Machine

/-! ### Taking the line and giving it up -/

theorem lineOe_eq_input_iff (s : State) : lineOe s = .input ↔ s.phase ≠ .hsLow ∧ s.phase ≠ .hsHigh := by
  unfold lineOe
  cases s.phase <;> decide

theorem lineOut_eq_high_iff (s : State) : lineOut s = .high ↔ s.phase ≠ .hsLow := by
  unfold lineOut
  cases s.phase <;> decide

/-- The table leads through the two driven phases on one path: `IDLE`, `HS_LOW`, `HS_HIGH`, `HS_WAIT1`. -/
theorem phaseMoves_at_drive {p q : Phase} (h : (p, q) ∈ phaseMoves) :
    (q = .hsLow → p = .idle) ∧ (q = .hsHigh → p = .hsLow) ∧
      (p = .hsLow → q = .hsHigh) ∧ (p = .hsHigh → q = .hsWait1) := by
  have key : ∀ m ∈ phaseMoves, (m.2 = .hsLow → m.1 = .idle) ∧ (m.2 = .hsHigh → m.1 = .hsLow) ∧
      (m.1 = .hsLow → m.2 = .hsHigh) ∧ (m.1 = .hsHigh → m.2 = .hsWait1) := by decide
  exact key _ h

/-- A step that changes the phase makes a move of the table. -/
theorem phaseMove_of_step {s t : State} (hr : s.pins.rst = false) (h : step s = .next t) (hne : t.phase ≠ s.phase) :
    (s.phase, t.phase) ∈ phaseMoves := by
  obtain ⟨hmove, -⟩ := phasesFollowTheTable s t hr h
  exact hmove.resolve_left hne

/-- Only a `READ` command leads out of `IDLE`. -/
theorem start_of_leaving_idle {s t : State} (hr : s.pins.rst = false) (h : step s = .next t) (hs : s.phase = .idle)
    (ht : t.phase ≠ .idle) : s.pins.start = true := by
  by_contra hstart
  rw [step_idle_nop s hr hs (Bool.eq_false_of_not_eq_true hstart)] at h
  obtain rfl := next_injective h
  exact ht ((nextTick_phase _).trans hs)

/-- The line is taken by an accepted command, into `HS_LOW`. -/
theorem line_taken {s t : State} (hr : s.pins.rst = false) (h : step s = .next t) (hs : lineOe s = .input)
    (ht : lineOe t = .output) : s.phase = .idle ∧ s.pins.start = true ∧ t.phase = .hsLow := by
  obtain ⟨hlow, hhigh⟩ := (lineOe_eq_input_iff s).mp hs
  obtain htlow | hthigh := (lineOe_eq_output_iff t).mp ht
  · obtain ⟨hidle, -⟩ := phaseMoves_at_drive (phaseMove_of_step hr h (htlow ▸ hlow.symm))
    exact ⟨hidle htlow, start_of_leaving_idle hr h (hidle htlow) (by simp [htlow]), htlow⟩
  · obtain ⟨-, hpulse, -⟩ := phaseMoves_at_drive (phaseMove_of_step hr h (hthigh ▸ hhigh.symm))
    exact absurd (hpulse hthigh) hlow

/-- The line is given up at the end of the ready pulse, into `HS_WAIT1`. -/
theorem line_given_up {s t : State} (hr : s.pins.rst = false) (h : step s = .next t) (hs : lineOe s = .output)
    (ht : lineOe t = .input) : s.phase = .hsHigh ∧ t.phase = .hsWait1 := by
  obtain ⟨htlow, hthigh⟩ := (lineOe_eq_input_iff t).mp ht
  obtain hlow | hhigh := (lineOe_eq_output_iff s).mp hs
  · obtain ⟨-, -, hpulse, -⟩ := phaseMoves_at_drive (phaseMove_of_step hr h (hlow ▸ htlow))
    exact absurd (hpulse hlow) hthigh
  · obtain ⟨-, -, -, hwait⟩ := phaseMoves_at_drive (phaseMove_of_step hr h (hhigh ▸ hthigh))
    exact ⟨hhigh, hwait hhigh⟩

/-- `HS_LOW` is entered from `IDLE` alone, so a driven line does not fall. -/
theorem driven_line_does_not_fall {s t : State} (hr : s.pins.rst = false) (h : step s = .next t)
    (hs : lineOe s = .output) (hhigh : lineOut s = .high) : lineOut t = .high := by
  rw [lineOut_eq_high_iff] at hhigh ⊢
  intro htlow
  obtain ⟨hidle, -⟩ := phaseMoves_at_drive (phaseMove_of_step hr h (htlow ▸ hhigh.symm))
  simp [lineOe_eq_output_iff, hidle htlow] at hs

/-- Settles O46, by the table's path through the two driven phases. -/
theorem lineIsTakenAndGivenUpOnce : Obligations.LineIsTakenAndGivenUpOnce := by
  unfold Obligations.LineIsTakenAndGivenUpOnce
  intro s t hr h
  refine ⟨fun hs ht => ?_, fun hs ht => ?_, fun hs _ => driven_line_does_not_fall hr h hs⟩
  · obtain ⟨hidle, hstart, hlow⟩ := line_taken hr h hs ht
    exact ⟨hidle, hstart, hlow, (lineOut_eq_low_iff t).mpr hlow⟩
  · obtain ⟨hhigh, hwait⟩ := line_given_up hr h hs ht
    exact ⟨hhigh, hwait, (lineOut_eq_high_iff s).mpr (by simp [hhigh])⟩

/-! ### Where the level is not looked at -/

/-- The state with the line at the level `l` on this tick. -/
def State.withLine (s : State) (l : Level) : State := { s with pins := { s.pins with lineIn := l } }

/-- The passing of the tick replaces the inputs, so what stood on the line is gone. -/
theorem nextTick_withLine (s : State) (l : Level) : (s.withLine l).nextTick = s.nextTick := by
  unfold State.nextTick
  cases hs : s.schedule <;> simp [State.withLine, hs]

/-- So too for a branch on a condition that does not mention the level. -/
theorem nextTick_ite_withLine {c : Prop} [Decidable c] (a b : State) (l : Level) :
    (if c then a.withLine l else b.withLine l).nextTick = (if c then a else b).nextTick := by
  rw [← apply_ite (State.withLine · l), nextTick_withLine]

/-- A delay-then-sample phase on a tick that is not its sample tick. -/
def State.beforeSample (s : State) : Prop :=
  (s.phase = .hsWait1 ∧ s.cnt ≠ s.params.tAck1) ∨ (s.phase = .hsWait2 ∧ s.cnt + 1 ≠ s.params.tAck2) ∨
    (s.phase = .bitDelay ∧ s.cnt + 1 ≠ s.params.tBit)

/-- Until the sample tick a delay only counts. -/
theorem step_beforeSample {s : State} (hr : s.pins.rst = false) (h : s.beforeSample) :
    step s = .next s.stay.nextTick := by
  obtain ⟨hp, hc⟩ | ⟨hp, hc⟩ | ⟨hp, hc⟩ := h
  · rw [step_hsWait1 s hr hp, if_neg hc]
  · rw [step_hsWait2 s hr hp, if_neg hc]
  · rw [step_bitDelay s hr hp, if_neg hc]

section LineChange
variable {s : State} (l : Level)

theorem step_reset_withLine (hr : s.pins.rst = true) : step (s.withLine l) = step s := by
  rw [step_reset s hr, step_reset (s.withLine l) hr]
  exact congrArg _ (nextTick_withLine s.resetBlock l)

/-- `IDLE` looks at the command inputs and not at the line. -/
theorem step_idle_withLine (hr : s.pins.rst = false) (hp : s.phase = .idle) : step (s.withLine l) = step s := by
  cases hs : s.pins.start with
  | false =>
    rw [step_idle_nop s hr hp hs, step_idle_nop (s.withLine l) hr hp hs]
    exact congrArg _ (nextTick_withLine s.clearDone l)
  | true =>
    rw [step_idle_read s hr hp hs, step_idle_read (s.withLine l) hr hp hs]
    exact congrArg _ (nextTick_withLine (s.acceptRead s.pins.variant) l)

/-- The two drives end by the count alone. -/
theorem step_drive_withLine (hr : s.pins.rst = false) (hp : s.phase = .hsLow ∨ s.phase = .hsHigh) :
    step (s.withLine l) = step s := by
  obtain hp | hp := hp
  · rw [step_hsLow s hr hp, step_hsLow (s.withLine l) hr hp]
    exact congrArg _ (nextTick_ite_withLine (s.goto .hsHigh) s.stay l)
  · rw [step_hsHigh s hr hp, step_hsHigh (s.withLine l) hr hp]
    exact congrArg _ (nextTick_ite_withLine (s.goto .hsWait1) s.stay l)

/-- `VALIDATE` looks at the frame alone. -/
theorem step_validate_withLine (hr : s.pins.rst = false) (hp : s.phase = .validate) :
    step (s.withLine l) = step s := by
  rw [step_validate s hr hp, step_validate (s.withLine l) hr hp]
  exact congrArg _ (nextTick_ite_withLine (s.storeReading.complete .ok) (s.complete .checksumMismatch) l)

theorem step_beforeSample_withLine (hr : s.pins.rst = false) (h : s.beforeSample) :
    step (s.withLine l) = step s := by
  have hl : (s.withLine l).beforeSample := h
  rw [step_beforeSample hr h, step_beforeSample (s := s.withLine l) hr hl]
  exact congrArg _ (nextTick_withLine s.stay l)

end LineChange

/-- Settles O47, by the phase: each of these operations decides by other elements than the line. -/
theorem lineIsReadOnlyWhereSampled : Obligations.LineIsReadOnlyWhereSampled := by
  unfold Obligations.LineIsReadOnlyWhereSampled
  intro s l h
  cases hr : s.pins.rst with
  | true => exact step_reset_withLine l hr
  | false =>
    obtain hidle | hlow | hhigh | hvalidate | hsample := h
    · exact step_idle_withLine l hr hidle
    · exact step_drive_withLine l hr (.inl hlow)
    · exact step_drive_withLine l hr (.inr hhigh)
    · exact step_validate_withLine l hr hvalidate
    · exact step_beforeSample_withLine l hr hsample

end Sys2Proof.Machine
end

section
/-! The encodings (spec/30_encoding.md): the decoder of each format as one equivalence, the codes of the enumerations,
and the frame word with its bytes. -/

namespace Sys2Proof.Machine

/-! ### The phase codes and the command words (R60, R61, R62, R68) -/

/-- The encoder's word of a phase operation is the code of its phase. -/
theorem encode_phase_instr (p : Phase) : encode p.instr = p.code.toNat := by cases p <;> rfl

theorem format_phase_instr (p : Phase) : p.instr.format = .ph := by cases p <;> rfl

theorem format_command_instr (c : Command) : c.instr.format = .cmd := by cases c <;> rfl

/-- A code decodes to a phase only where it is the code of that phase. -/
theorem decodePhase_eq_some_iff (c : BitVec 4) (p : Phase) : decodePhase c = some p ↔ p.code = c := by
  refine ⟨fun h => ?_, by rintro rfl; exact decodePhase_code p⟩
  have key : ∀ c : BitVec 4, ∀ q ∈ decodePhase c, q.code = c := by decide
  exact key c p h

/-- Ten codes name a phase; the six above them are reserved. -/
theorem decodePhase_eq_none_iff (c : BitVec 4) : decodePhase c = none ↔ 10 ≤ c.toNat := by
  revert c
  decide

/-- A word with a bit above its format's width is refused as too wide, in either format. -/
theorem decode_of_too_wide {f : Format} {w : Nat} (h : 2 ^ f.width ≤ w) : decode f w = .error (.wordTooWide w) := by
  simp [decode, Nat.not_lt.mpr h]

theorem decode_cmd_of_lt {w : Nat} (h : w < 4) : decode .cmd w = .ok (decodeCommand (BitVec.ofNat 2 w)).instr :=
  if_pos h

/-- A word of format PH is read through the phase that its four bits name. -/
theorem decode_ph_of_lt {w : Nat} (h : w < 16) : decode .ph w =
    (decodePhase (BitVec.ofNat 4 w)).elim (.error (.reservedPhaseCode (BitVec.ofNat 4 w))) (.ok ·.instr) := by
  refine (if_pos h).trans ?_
  cases decodePhase (BitVec.ofNat 4 w) <;> rfl

/-- A word that decodes fits its format. -/
theorem lt_of_decode {f : Format} {w : Nat} {i : Instr} (h : decode f w = .ok i) : w < 2 ^ f.width := by
  by_contra hw
  rw [decode_of_too_wide (Nat.not_lt.mp hw)] at h
  cases h

/-- Format PH holds the codes of the phases and nothing else. -/
theorem decode_ph_eq_ok_iff (w : Nat) (i : Instr) : decode .ph w = .ok i ↔ ∃ p : Phase, p.instr = i ∧ w = p.code.toNat := by
  refine ⟨fun h => ?_, by rintro ⟨p, rfl, rfl⟩; exact decode_phase_code p⟩
  have hw : w < 16 := lt_of_decode h
  rw [decode_ph_of_lt hw] at h
  cases hp : decodePhase (BitVec.ofNat 4 w) with
  | none => rw [hp] at h; cases h
  | some p =>
    rw [hp] at h
    refine ⟨p, Except.ok.inj h, ?_⟩
    rw [(decodePhase_eq_some_iff _ p).mp hp, BitVec.toNat_ofNat, Nat.mod_eq_of_lt hw]

/-- A command word is the encoder's word of the command it means, or the second word of `NOP`. -/
theorem command_word_cases : ∀ w < 4,
    w = encode (decodeCommand (BitVec.ofNat 2 w)).instr ∨ (w = 0b01 ∧ (decodeCommand (BitVec.ofNat 2 w)).instr = .nop) := by
  decide

/-- Settles O54, by the format of the operation. -/
theorem decodeEncodeAgree : Obligations.DecodeEncodeAgree := by
  unfold Obligations.DecodeEncodeAgree
  intro i _
  obtain ⟨c, rfl⟩ | ⟨p, rfl⟩ := instr_command_or_phase i
  · have hfit : encode c.instr < 4 := by cases c <;> decide
    rw [format_command_instr, decode_cmd_of_lt hfit, decodeCommand_encode]
  · rw [format_phase_instr, encode_phase_instr, decode_phase_code]

/-- Settles O55: in format CMD by the four words, in format PH by the code of the phase that was read. -/
theorem onlyEncodingsDecode : Obligations.OnlyEncodingsDecode := by
  unfold Obligations.OnlyEncodingsDecode
  refine ⟨fun f w i h => ?_, fun w hlow hhigh => ?_, fun w hw => decode_of_too_wide hw, fun w hw => decode_of_too_wide hw⟩
  · cases f with
    | cmd =>
      have hw : w < 4 := lt_of_decode h
      obtain rfl := Except.ok.inj ((decode_cmd_of_lt hw).symm.trans h)
      exact ⟨format_command_instr _, (command_word_cases w hw).imp_right fun hnop => ⟨rfl, hnop⟩⟩
    | ph =>
      obtain ⟨p, rfl, rfl⟩ := (decode_ph_eq_ok_iff w i).mp h
      exact ⟨format_phase_instr p, .inl (encode_phase_instr p).symm⟩
  · have hnone : decodePhase (BitVec.ofNat 4 w) = none := by
      rw [decodePhase_eq_none_iff, BitVec.toNat_ofNat]
      omega
    rw [decode_ph_of_lt (by omega), hnone, Option.elim_none]

/-- Settles O56: each of the six words is the encoder's word of its operation. -/
theorem writtenOutWordsDecode : Obligations.WrittenOutWordsDecode := by
  unfold Obligations.WrittenOutWordsDecode
  exact ⟨decodeEncodeAgree .readA rfl, decodeEncodeAgree .readB rfl, decodeEncodeAgree .idle rfl,
    decodeEncodeAgree .hsWait1 rfl, decodeEncodeAgree .bitDelay rfl, decodeEncodeAgree .validate rfl⟩

/-! ### The codes of the enumerations (R63, R64) -/

/-- A code reads as a status only where it is the code of that status. -/
theorem status_ofCode_eq_some_iff (c : BitVec 3) (k : Status) : Status.ofCode c = some k ↔ k.code = c := by
  refine ⟨fun h => ?_, by rintro rfl; exact status_ofCode_code k⟩
  have key : ∀ c : BitVec 3, ∀ q ∈ Status.ofCode c, q.code = c := by decide
  exact key c k h

/-- Five codes name a status; the three above them are reserved. -/
theorem status_ofCode_eq_none_iff (c : BitVec 3) : Status.ofCode c = none ↔ 5 ≤ c.toNat := by
  revert c
  decide

/-- Settles O57: the status both ways, and the written-out codes by their definitions. -/
theorem codesOfTheEnumerations : Obligations.CodesOfTheEnumerations := by
  unfold Obligations.CodesOfTheEnumerations
  exact ⟨status_ofCode_eq_some_iff, status_ofCode_eq_none_iff, ⟨rfl, rfl, rfl, rfl, rfl⟩,
    ⟨rfl, rfl⟩, ⟨rfl, rfl⟩, ⟨rfl, rfl⟩, ⟨rfl, rfl⟩⟩

/-! ### The frame word (R65, R44) -/

/-- Byte `i` of a word is its eight bits from bit `32 - 8 * i` up. -/
theorem readByte_ofWord (w : BitVec 40) (i : ByteIdx) :
    readByte (RawFrame.ofWord w) i = w.extractLsb' (32 - 8 * i.val) 8 := by
  match i with
  | 0 => rfl
  | 1 => rfl
  | 2 => rfl
  | 3 => rfl
  | 4 => rfl

/-- Eight bits of a word as a number: a digit of it in base 256. -/
theorem extractByte_toNat (w : BitVec 40) (n : Nat) : (w.extractLsb' n 8).toNat = w.toNat / 2 ^ n % 256 := by
  rw [BitVec.extractLsb'_toNat, Nat.shiftRight_eq_div_pow]

theorem ofWord_toWord (f : RawFrame) : RawFrame.ofWord f.toWord = f := by
  refine frame_ext_bytes _ _ fun i => BitVec.eq_of_toNat_eq ?_
  rw [readByte_ofWord, extractByte_toNat, toWord_toNat]
  have := f.humidityHigh.isLt; have := f.humidityLow.isLt; have := f.tempHigh.isLt
  have := f.tempLow.isLt; have := f.checksum.isLt
  match i with
  | 0 => change _ / 2 ^ 32 % 256 = f.humidityHigh.toNat; omega
  | 1 => change _ / 2 ^ 24 % 256 = f.humidityLow.toNat; omega
  | 2 => change _ / 2 ^ 16 % 256 = f.tempHigh.toNat; omega
  | 3 => change _ / 2 ^ 8 % 256 = f.tempLow.toNat; omega
  | 4 => change _ / 2 ^ 0 % 256 = f.checksum.toNat; omega

theorem toWord_ofWord (w : BitVec 40) : (RawFrame.ofWord w).toWord = w := by
  refine BitVec.eq_of_toNat_eq ?_
  simp only [toWord_toNat, RawFrame.ofWord, extractByte_toNat]
  have := w.isLt
  omega

/-- A bit of the word is a bit of the byte it lies in, since that byte is read back from the word. -/
theorem toWord_getLsbD (f : RawFrame) (i : ByteIdx) {j : Nat} (hj : j < 8) :
    f.toWord.getLsbD (39 - 8 * i.val - j) = (readByte f i).getLsbD (7 - j) := by
  have hbyte : readByte f i = f.toWord.extractLsb' (32 - 8 * i.val) 8 := by rw [← readByte_ofWord, ofWord_toWord]
  have hplace : 32 - 8 * i.val + (7 - j) = 39 - 8 * i.val - j := by omega
  rw [hbyte, BitVec.getLsbD_extractLsb', hplace, decide_eq_true (by omega), Bool.true_and]

/-- The bits of a frame arrive from bit 39 of its word downwards. -/
theorem frameBits_getElem? (f : RawFrame) {n : Nat} (hn : n < 40) :
    (frameBits f)[n]? = some (f.toWord.getLsbD (39 - n)) := by
  simp [frameBits, hn]

/-- Settles O53, by the two conversions being inverse and the place of each byte in the word. -/
theorem frameWordAndBytesAgree : Obligations.FrameWordAndBytesAgree := by
  unfold Obligations.FrameWordAndBytesAgree
  refine ⟨ofWord_toWord, toWord_ofWord, fun f i j hj => ⟨toWord_getLsbD f i hj, ?_⟩⟩
  rw [frameBits_getElem? f (by omega), Nat.sub_add_eq, toWord_getLsbD f i hj]

end Sys2Proof.Machine
end


section
/-! Runs along a line, phase by phase of the frame decode: what a block has become when the line it hears has been
played (spec/42_frame_decode.md R105 to R107), and from them the table of High widths (spec/30_encoding.md R66). -/

namespace Sys2Proof.Machine

/-! ### Blocks that hear a line -/

/-- Whatever its environment, a state with the block of `x` that hears `ls` has, `n` ticks on, the block of `y` and
hears `rest`. -/
def LeadsTo (n : Nat) (x : State) (ls : List Level) (y : State) (rest : List Level) : Prop :=
  ∀ u : State, u.block = x.block → u.hears ls → ∃ t, RunsTo n u t ∧ t.block = y.block ∧ t.hears rest

theorem LeadsTo.trans {m n : Nat} {x y z : State} {ls ms rest : List Level} (h1 : LeadsTo m x ls y ms)
    (h2 : LeadsTo n y ms z rest) : LeadsTo (m + n) x ls z rest := by
  intro u hb hh
  obtain ⟨v, hrun, hbv, hhv⟩ := h1 u hb hh
  obtain ⟨t, hrun', hbt, hht⟩ := h2 v hbv hhv
  exact ⟨t, runsTo_add hrun hrun', hbt, hht⟩

/-- The block of `x` after `k` more ticks of its phase, in the environment of `e`. -/
def State.counted (x : State) (k : Nat) (e : State) : State :=
  { x with cnt := x.cnt + k, pins := e.pins, schedule := e.schedule, tick := e.tick }

@[simp] theorem counted_cnt (x e : State) (k : Nat) : (x.counted k e).cnt = x.cnt + k := rfl
@[simp] theorem counted_params (x e : State) (k : Nat) : (x.counted k e).params = x.params := rfl
@[simp] theorem counted_pins (x e : State) (k : Nat) : (x.counted k e).pins = e.pins := rfl

/-- A state whose block is that of `x`, `k` ticks later in its phase, differs from `x` in the environment besides. -/
theorem eq_counted {u x : State} {k : Nat} (h : u.block = ({ x with cnt := x.cnt + k } : State).block) :
    u = x.counted k u := by
  cases u
  simpa [State.block, State.counted] using h

/-- A step hears the first level of the line, and what is left is heard after it. -/
theorem hears_of_step {s t : State} {l : Level} {ls : List Level} (h : s.hears (l :: ls)) (hs : step s = .next t) :
    t.hears ls := by
  obtain ⟨-, -, htail⟩ := hears_cons h
  obtain ⟨x, rfl, -, -, hschedule, -⟩ := step_sameEnvironment hs
  exact htail x hschedule

/-- A phase that stays on every tick of a stretch of line, and on the level after it acts by `f`. -/
theorem leadsTo_of_stretch {x : State} (f : State → State) {ls : List Level} {l : Level} {n : Nat}
    (hlen : ls.length + 1 = n) (rest : List Level)
    (hf : ∀ (k : Nat) (e : State), (f (x.counted k e)).block = (f x).block)
    (hstay : ∀ k < ls.length, ∀ e : State, e.pins.rst = false → e.pins.lineIn ∈ ls →
      step (x.counted k e) = .next (x.counted k e).stay.nextTick)
    (hact : ∀ e : State, e.pins.rst = false → e.pins.lineIn = l →
      step (x.counted ls.length e) = .next (f (x.counted ls.length e)).nextTick) :
    LeadsTo n x (ls ++ l :: rest) (f x) rest := by
  intro s hb hh
  have hcount {u : State} {k : Nat} (hbu : u.block = ({ s with cnt := s.cnt + k } : State).block) : u = x.counted k u :=
    eq_counted (hbu.trans (congrArg (fun b : State => { b with cnt := b.cnt + k }) hb))
  have hwait (k : Nat) (l' : Level) (u : State) (hk : ls[k]? = some l')
      (hbu : u.block = ({ s with cnt := s.cnt + k } : State).block) (hr : u.pins.rst = false) (hl : u.pins.lineIn = l') :
      step u = .next u.stay.nextTick := by
    obtain ⟨hk', -⟩ := List.getElem?_eq_some_iff.mp hk
    rw [hcount hbu]
    exact hstay k hk' u hr (hl ▸ List.mem_of_getElem? hk)
  obtain ⟨u, hrun, hbu, hhu⟩ := stays_while ls (l :: rest) hh hwait ls.length le_rfl
  rw [List.drop_length, List.nil_append] at hhu
  obtain ⟨hr, hl, -⟩ := hears_cons hhu
  have hstep : step u = .next (f (x.counted ls.length u)).nextTick := (congrArg step (hcount hbu)).trans (hact u hr hl)
  exact ⟨_, hlen ▸ runsTo_add hrun (runsTo_one hstep), (block_nextTick _).trans (hf _ u), hears_of_step hhu hstep⟩

/-! ### The three phases of a bit -/

/-- The tick on which a bit is complete writes `phase` and `cnt` whatever they were. -/
theorem bitComplete_block (x e : State) (p : Phase) (c : Nat) :
    ({ x with phase := p, cnt := c, pins := e.pins, schedule := e.schedule, tick := e.tick } : State).bitComplete.block =
      x.bitComplete.block := by
  by_cases h7 : x.bitCnt = 7 <;> by_cases h4 : x.byteIdx = 4 <;>
    simp [State.bitComplete, State.storeByte, State.goto, State.block, h7, h4]

section BitPhases
variable {x : State} (rest : List Level)

/-- R105: fewer than `T_TIMEOUT` ticks of Low, then High. -/
theorem bitWaitHigh_leadsTo (hp : x.phase = .bitWaitHigh) (hc : x.cnt = 0) {g : Nat} (hg : g < x.params.tTimeout) :
    LeadsTo (g + 1) x (List.replicate g .low ++ .high :: rest) (x.goto .bitDelay) rest := by
  refine leadsTo_of_stretch (State.goto · .bitDelay) (by simp) rest (fun _ _ => rfl) (fun k hk e hr hl => ?_)
    fun e hr hl => ?_
  · have hlow : e.pins.lineIn = .low := List.eq_of_mem_replicate hl
    rw [List.length_replicate] at hk
    rw [step_bitWaitHigh (x.counted _ e) hr hp, if_neg (by simp [hlow]), if_neg (by simp; omega)]
  · rw [step_bitWaitHigh (x.counted _ e) hr hp, counted_pins, if_pos hl]

/-- R106: the level of the last of `T_BIT` ticks is the bit. -/
theorem bitDelay_leadsTo (hp : x.phase = .bitDelay) (hc : x.cnt = 0) {waited : List Level}
    (hlen : waited.length + 1 = x.params.tBit) (sample : Level) :
    LeadsTo x.params.tBit x (waited ++ sample :: rest) ((x.shiftBit sample).goto .bitWaitLow) rest := by
  refine leadsTo_of_stretch (fun s => (s.shiftBit sample).goto .bitWaitLow) hlen rest (fun _ _ => rfl)
    (fun k hk e hr _ => ?_) fun e hr hl => ?_
  · rw [step_bitDelay (x.counted _ e) hr hp, if_neg (by simp; omega)]
  · rw [step_bitDelay (x.counted _ e) hr hp, if_pos (by simp; omega), ← hl, counted_pins]

/-- On a High before the deadline `BIT_WAIT_LOW` stays. -/
theorem step_bitWaitLow_high (hp : x.phase = .bitWaitLow) {k : Nat} (hk : x.cnt + k + 1 < x.params.tTimeout) {e : State}
    (hr : e.pins.rst = false) (hl : e.pins.lineIn = .high) :
    step (x.counted k e) = .next (x.counted k e).stay.nextTick := by
  rw [step_bitWaitLow (x.counted _ e) hr hp, if_neg (by simp [hl]), if_neg (by simp; omega)]

/-- R107: fewer than `T_TIMEOUT` ticks of High, then Low: the bit is complete. -/
theorem bitWaitLow_leadsTo (hp : x.phase = .bitWaitLow) (hc : x.cnt = 0) {n : Nat} (hn : n < x.params.tTimeout) :
    LeadsTo (n + 1) x (List.replicate n .high ++ .low :: rest) x.bitComplete rest := by
  refine leadsTo_of_stretch State.bitComplete (by simp) rest (fun k e => bitComplete_block x e x.phase (x.cnt + k))
    (fun k hk e hr hl => ?_) fun e hr hl => ?_
  · rw [List.length_replicate] at hk
    exact step_bitWaitLow_high hp (by omega) hr (List.eq_of_mem_replicate hl)
  · rw [step_bitWaitLow (x.counted _ e) hr hp, counted_pins, if_pos hl]

/-- R107: `T_TIMEOUT` ticks of High: the read completes with `TIMEOUT`. -/
theorem bitWaitLow_leadsTo_timeout (hp : x.phase = .bitWaitLow) (hc : x.cnt = 0) {n : Nat} (hn : n + 1 = x.params.tTimeout) :
    LeadsTo (n + 1) x (List.replicate n .high ++ .high :: rest) (x.complete .timeout) rest := by
  refine leadsTo_of_stretch (State.complete · .timeout) (by simp) rest (fun _ _ => rfl) (fun k hk e hr hl => ?_)
    fun e hr hl => ?_
  · rw [List.length_replicate] at hk
    exact step_bitWaitLow_high hp (by omega) hr (List.eq_of_mem_replicate hl)
  · rw [step_bitWaitLow (x.counted _ e) hr hp, if_neg (by simp [hl]), if_pos (by simp; omega)]

end BitPhases

/-! ### One symbol -/

section Symbol
variable {s : State} {g : Nat} (hp : s.phase = .bitWaitHigh) (hc : s.cnt = 0) (hg : g < s.params.tTimeout)
  {waited : List Level} (hlen : waited.length + 1 = s.params.tBit) (sample : Level)
include hp hc hg hlen

/-- From `BIT_WAIT_HIGH` to the sample: the bit is the level `T_BIT` ticks after the first High. -/
theorem symbol_leadsTo_sample (rest : List Level) :
    LeadsTo (g + 1 + s.params.tBit) s (List.replicate g .low ++ .high :: (waited ++ sample :: rest))
      ((s.shiftBit sample).goto .bitWaitLow) rest :=
  (bitWaitHigh_leadsTo _ hp hc hg).trans (bitDelay_leadsTo (x := s.goto .bitDelay) rest rfl rfl hlen sample)

/-- The line falls within `T_TIMEOUT` ticks of the sample: the bit is complete. -/
theorem symbol_leadsTo_bitComplete {n : Nat} (hn : n < s.params.tTimeout) (rest : List Level) :
    LeadsTo (g + 1 + s.params.tBit + (n + 1)) s
      (List.replicate g .low ++ .high :: (waited ++ sample :: (List.replicate n .high ++ .low :: rest)))
      ((s.shiftBit sample).goto .bitWaitLow).bitComplete rest :=
  (symbol_leadsTo_sample hp hc hg hlen sample _).trans (bitWaitLow_leadsTo rest rfl rfl hn)

/-- The line stays High for `T_TIMEOUT` ticks after the sample: the read is over. -/
theorem symbol_leadsTo_timeout {n : Nat} (hn : n + 1 = s.params.tTimeout) (rest : List Level) :
    LeadsTo (g + 1 + s.params.tBit + (n + 1)) s
      (List.replicate g .low ++ .high :: (waited ++ sample :: (List.replicate n .high ++ .high :: rest)))
      (((s.shiftBit sample).goto .bitWaitLow).complete .timeout) rest :=
  (symbol_leadsTo_sample hp hc hg hlen sample _).trans (bitWaitLow_leadsTo_timeout rest rfl rfl hn)

end Symbol

/-! ### The table of High widths (R66) -/

/-- The line of a symbol: `g` ticks of Low, `w` of High and enough of Low for a sample and the end of the bit. -/
def symbolLine (p : Params) (g w : Nat) : List Level :=
  List.replicate g .low ++ List.replicate w .high ++ List.replicate (p.tBit + 2) .low

/-- A High of at most `T_BIT` ticks: sampled Low, and Low on the tick after. -/
theorem symbolLine_of_le {p : Params} {g w : Nat} (hw : 1 ≤ w) (h : w ≤ p.tBit) :
    ∃ waited rest, waited.length + 1 = p.tBit ∧
      symbolLine p g w = List.replicate g .low ++ .high :: (waited ++ .low :: (List.replicate 0 .high ++ .low :: rest)) := by
  obtain ⟨w, rfl⟩ := Nat.exists_eq_add_of_le' hw
  obtain ⟨d, hd⟩ := Nat.exists_eq_add_of_le h
  refine ⟨List.replicate w .high ++ List.replicate d .low, List.replicate (w + 1) .low, by simp; omega, ?_⟩
  have hlow : p.tBit + 2 = d + (1 + (1 + (w + 1))) := by omega
  rw [symbolLine, hlow, List.replicate_succ]
  simp only [List.replicate_add, List.replicate_one, List.append_assoc, List.cons_append, List.nil_append,
    List.replicate_zero]

/-- A longer High, of `n + 1` ticks from the sample on: sampled High, and High for `n` ticks after. -/
theorem symbolLine_of_gt {p : Params} (g n : Nat) (h : 1 ≤ p.tBit) :
    ∃ waited, waited.length + 1 = p.tBit ∧ symbolLine p g (p.tBit + (n + 1)) =
      List.replicate g .low ++ .high :: (waited ++ .high :: (List.replicate n .high ++ .low :: List.replicate (p.tBit + 1) .low)) := by
  obtain ⟨b, hb⟩ := Nat.exists_eq_add_of_le' h
  refine ⟨List.replicate b .high, by simp [hb], ?_⟩
  rw [symbolLine, hb]
  simp [List.replicate_succ, List.replicate_add]

/-- A High that ends within `T_TIMEOUT` ticks of its sample gives the bit of R66's table, and the bit is complete. -/
theorem symbol_completes {s : State} {g n : Nat} {waited rest : List Level} {sample : Level} (hp : s.phase = .bitWaitHigh)
    (hc : s.cnt = 0) (hg : g < s.params.tTimeout) (hlen : waited.length + 1 = s.params.tBit) (hn : n < s.params.tTimeout)
    (hh : s.hears (List.replicate g .low ++ .high :: (waited ++ sample :: (List.replicate n .high ++ .low :: rest)))) :
    ∃ m t, RunsTo m s t ∧ t.block = (s.shiftBit sample).bitComplete.block := by
  obtain ⟨t, hrun, hb, -⟩ := symbol_leadsTo_bitComplete hp hc hg hlen sample hn rest s rfl hh
  exact ⟨_, t, hrun, hb.trans (bitComplete_block (s.shiftBit sample) s .bitWaitLow 0)⟩

/-- Settles O24, by the three rows of R66's table. -/
theorem symbolWidthDecidesTheBit : Obligations.SymbolWidthDecidesTheBit := by
  unfold Obligations.SymbolWidthDecidesTheBit
  intro s g w hp hc hpos hw hg hh
  obtain ⟨hbit, htimeout⟩ : 1 ≤ s.params.tBit ∧ 1 ≤ s.params.tTimeout := by
    simp only [Params.positive, decide_eq_true_eq] at hpos
    omega
  change s.hears (symbolLine s.params g w) at hh
  unfold decodedBit
  split_ifs with hzero hone
  · obtain ⟨waited, rest, hlen, hline⟩ := symbolLine_of_le (g := g) hw hzero
    exact symbol_completes hp hc hg hlen htimeout (hline ▸ hh)
  · obtain ⟨n, rfl⟩ : ∃ n, w = s.params.tBit + (n + 1) := ⟨w - s.params.tBit - 1, by omega⟩
    obtain ⟨waited, hlen, hline⟩ := symbolLine_of_gt g n hbit
    exact symbol_completes hp hc hg hlen (by omega) (hline ▸ hh)
  · obtain ⟨d, rfl⟩ : ∃ d, w = s.params.tBit + (s.params.tTimeout + d + 1) :=
      ⟨w - s.params.tBit - s.params.tTimeout - 1, by omega⟩
    obtain ⟨waited, hlen, hline⟩ := symbolLine_of_gt g (s.params.tTimeout + d) hbit
    obtain ⟨n, hn⟩ := Nat.exists_eq_add_of_le' htimeout
    have hhigh : List.replicate (s.params.tTimeout + d) Level.high =
        List.replicate n .high ++ .high :: List.replicate d .high := by
      rw [hn, List.replicate_add, List.replicate_succ', List.append_assoc, List.singleton_append]
    rw [hline, hhigh, List.append_assoc, List.cons_append] at hh
    obtain ⟨t, hrun, hb, -⟩ := symbol_leadsTo_timeout hp hc hg hlen .high hn.symm _ s rfl hh
    obtain ⟨hphase, -, -, -, -, -, -, -, hdone, hstatus, -⟩ := (block_eq_iff _ _).mp hb
    exact ⟨_, t, hrun, hphase, hdone, hstatus⟩

end Sys2Proof.Machine
end

section
/-! The commands (spec/40_command.md R80 to R84): the three command operations in `IDLE` and while the block is busy,
the command that an `IDLE` tick reads from its inputs, and runs of ticks that present none. -/

namespace Sys2Proof.Machine

/-! ### The command operations -/

section Idle
variable {s : State} (h : s.phase = .idle)
include h

theorem exec_nop_idle : exec .nop s = .next s.clearDone := congrArg _ (if_pos h)

theorem exec_readA_idle : exec .readA s = .next (s.acceptRead .variantA) := congrArg _ (if_pos h)

theorem exec_readB_idle : exec .readB s = .next (s.acceptRead .variantB) := congrArg _ (if_pos h)

end Idle

section Busy
variable {s : State} (h : s.phase ≠ .idle)
include h

theorem exec_nop_busy : exec .nop s = .next s := congrArg _ (if_neg h)

theorem exec_readA_busy : exec .readA s = .next s := congrArg _ (if_neg h)

theorem exec_readB_busy : exec .readB s = .next s := congrArg _ (if_neg h)

end Busy

/-- The command that asks for a read of a variant. -/
def readCommandOf : Variant → Command
  | .variantA => .readA
  | .variantB => .readB

/-- R81 and R82 are one operation but for the variant that it latches. -/
theorem exec_readCommandOf_idle {s : State} (h : s.phase = .idle) (v : Variant) :
    exec (readCommandOf v).instr s = .next (s.acceptRead v) := by
  cases v with
  | variantA => exact exec_readA_idle h
  | variantB => exact exec_readB_idle h

/-- The command inputs of a tick, decoded as R61 asks: without `start` a `NOP`, whatever `variant` is. -/
theorem decodeCommand_commandWord (p : Pins) :
    decodeCommand (commandWord p) = if p.start then readCommandOf p.variant else .nop := by
  have key : ∀ (b : Bool) (v : Variant), decodeCommand (BitVec.ofBool b ++ v.bit) =
      if b then readCommandOf v else .nop := by
    rintro (_ | _) (_ | _) <;> rfl
  exact key p.start p.variant

/-- The `IDLE` operation on a tick that presents no command. -/
theorem exec_idle_nop {s : State} (h : s.phase = .idle) (hs : s.pins.start = false) :
    exec .idle s = .next s.clearDone := by
  have hcommand : decodeCommand (commandWord s.pins) = .nop := by simp [decodeCommand_commandWord, hs]
  refine (execIdle_eq_command s h).trans ?_
  rw [hcommand]
  exact exec_nop_idle h

/-- The `IDLE` operation on a tick that presents a `READ` command. -/
theorem exec_idle_read {s : State} (h : s.phase = .idle) (hs : s.pins.start = true) :
    exec .idle s = .next (s.acceptRead s.pins.variant) := by
  have hcommand : decodeCommand (commandWord s.pins) = readCommandOf s.pins.variant := by
    simp [decodeCommand_commandWord, hs]
  refine (execIdle_eq_command s h).trans ?_
  rw [hcommand]
  exact exec_readCommandOf_idle h _

/-- The tick that accepts a command. -/
theorem step_acceptsRead {s : State} {v : Variant} (h : s.acceptsRead v) :
    step s = .next (s.acceptRead v).nextTick := by
  obtain ⟨hidle, hrst, hstart, rfl⟩ := h
  exact step_idle_read s hrst hidle hstart

/-- Settles O1. -/
theorem nopOnlyClearsDone : Obligations.NopOnlyClearsDone := by
  unfold Obligations.NopOnlyClearsDone
  exact fun s h => exec_nop_idle h

/-- Settles O3: the operation is the acceptance of the variant, and so is the step that presents the command. -/
theorem readAStartsARead : Obligations.ReadAStartsARead := by
  unfold Obligations.ReadAStartsARead
  refine fun s h => ⟨exec_readA_idle h, fun haccepts t ht => ?_⟩
  rw [← next_injective ((exec_readA_idle h).symm.trans ht)]
  exact step_acceptsRead haccepts

/-- Settles O4, as O3 with the other variant. -/
theorem readBStartsARead : Obligations.ReadBStartsARead := by
  unfold Obligations.ReadBStartsARead
  refine fun s h => ⟨exec_readB_idle h, fun haccepts t ht => ?_⟩
  rw [← next_injective ((exec_readB_idle h).symm.trans ht)]
  exact step_acceptsRead haccepts

/-- Settles O5, by the command that the inputs of the tick name. -/
theorem idleDecodesTheCommandWord : Obligations.IdleDecodesTheCommandWord := by
  unfold Obligations.IdleDecodesTheCommandWord
  intro s h
  refine ⟨(lineOe_eq_input_iff s).mpr (by simp [h]), exec_idle_nop h, exec_idle_read h, fun hs hv => ?_, fun hs hv => ?_⟩
  · rw [exec_idle_read h hs, hv, exec_readA_idle h]
  · rw [exec_idle_read h hs, hv, exec_readB_idle h]

/-! ### A busy block does not look at the command inputs (R83) -/

/-- The state with the command inputs of this tick replaced. -/
def State.withCommand (s : State) (b : Bool) (v : Variant) : State :=
  { s with pins := { s.pins with start := b, variant := v } }

/-- The passing of the tick replaces the inputs, so the command that stood there is gone. -/
theorem nextTick_withCommand (s : State) (b : Bool) (v : Variant) : (s.withCommand b v).nextTick = s.nextTick := by
  unfold State.nextTick
  cases hs : s.schedule <;> simp [State.withCommand, hs]

theorem bitComplete_withCommand (s : State) (b : Bool) (v : Variant) :
    (s.withCommand b v).bitComplete = s.bitComplete.withCommand b v := by
  unfold State.bitComplete
  rw [apply_ite (State.withCommand · b v), apply_ite (State.withCommand · b v)]
  rfl

/-- Two branches on one condition, whose difference the passing of the tick removes. -/
theorem nextTick_ite_congr {c : Prop} [Decidable c] {x y x' y' : State} (hx : x'.nextTick = x.nextTick)
    (hy : y'.nextTick = y.nextTick) : (if c then x' else y').nextTick = (if c then x else y).nextTick := by
  rw [apply_ite State.nextTick, apply_ite State.nextTick, hx, hy]

/-- The operation of a busy phase decides by other inputs than these, and the tick that passes takes them away. -/
theorem step_busy_withCommand {s : State} (hr : s.pins.rst = false) (h : s.phase ≠ .idle) (b : Bool) (v : Variant) :
    step (s.withCommand b v) = step s := by
  have gone (x : State) : (x.withCommand b v).nextTick = x.nextTick := nextTick_withCommand x b v
  obtain ⟨p, hp⟩ : ∃ p, s.phase = p := ⟨_, rfl⟩
  cases p with
  | idle => exact absurd hp h
  | hsLow =>
    rw [step_hsLow s hr hp, step_hsLow (s.withCommand b v) hr hp]
    exact congrArg _ (nextTick_ite_congr (gone (s.goto .hsHigh)) (gone s.stay))
  | hsHigh =>
    rw [step_hsHigh s hr hp, step_hsHigh (s.withCommand b v) hr hp]
    exact congrArg _ (nextTick_ite_congr (gone (s.goto .hsWait1)) (gone s.stay))
  | hsWait1 =>
    rw [step_hsWait1 s hr hp, step_hsWait1 (s.withCommand b v) hr hp]
    exact congrArg _ (nextTick_ite_congr
      (nextTick_ite_congr (gone ((s.setResponse .failure).goto .hsRelease)) (gone (s.goto .hsWait2))) (gone s.stay))
  | hsWait2 =>
    rw [step_hsWait2 s hr hp, step_hsWait2 (s.withCommand b v) hr hp]
    exact congrArg _ (nextTick_ite_congr (gone ((s.setResponse (responseOf s.pins.lineIn)).goto .hsRelease)) (gone s.stay))
  | hsRelease =>
    rw [step_hsRelease s hr hp, step_hsRelease (s.withCommand b v) hr hp]
    exact congrArg _ (nextTick_ite_congr
      (nextTick_ite_congr (gone (s.goto .bitWaitHigh)) (gone (s.complete .noResponse)))
      (nextTick_ite_congr (nextTick_ite_congr (gone (s.complete .timeout)) (gone (s.complete .noResponse)))
        (gone s.stay)))
  | bitWaitHigh =>
    rw [step_bitWaitHigh s hr hp, step_bitWaitHigh (s.withCommand b v) hr hp]
    exact congrArg _ (nextTick_ite_congr (gone (s.goto .bitDelay))
      (nextTick_ite_congr (gone (s.complete .timeout)) (gone s.stay)))
  | bitDelay =>
    rw [step_bitDelay s hr hp, step_bitDelay (s.withCommand b v) hr hp]
    exact congrArg _ (nextTick_ite_congr (gone ((s.shiftBit s.pins.lineIn).goto .bitWaitLow)) (gone s.stay))
  | bitWaitLow =>
    rw [step_bitWaitLow s hr hp, step_bitWaitLow (s.withCommand b v) hr hp, bitComplete_withCommand]
    exact congrArg _ (nextTick_ite_congr (gone s.bitComplete)
      (nextTick_ite_congr (gone (s.complete .timeout)) (gone s.stay)))
  | validate =>
    rw [step_validate s hr hp, step_validate (s.withCommand b v) hr hp]
    exact congrArg _ (nextTick_ite_congr (gone (s.storeReading.complete .ok)) (gone (s.complete .checksumMismatch)))

theorem step_reset_withCommand {s : State} (hr : s.pins.rst = true) (b : Bool) (v : Variant) :
    step (s.withCommand b v) = step s := by
  rw [step_reset s hr, step_reset (s.withCommand b v) hr]
  exact congrArg _ (nextTick_withCommand s.resetBlock b v)

/-- Settles O6: the command operations by their guard, the step by whether a reset overrides the phase. -/
theorem busyBlockIgnoresCommands : Obligations.BusyBlockIgnoresCommands := by
  unfold Obligations.BusyBlockIgnoresCommands
  refine fun s h => ⟨exec_nop_busy h, exec_readA_busy h, exec_readB_busy h, fun b v => ?_⟩
  cases hr : s.pins.rst with
  | true => exact step_reset_withCommand hr b v
  | false => exact step_busy_withCommand hr h b v

/-! ### Ticks without a command (R80) -/

/-- Neither a reset nor a command comes in the `n` ticks from this one on. -/
def State.quietFor (s : State) (n : Nat) : Prop :=
  n ≤ s.upcoming.length ∧ ∀ p ∈ s.upcoming.take n, p.rst = false ∧ p.start = false

/-- The first quiet tick, and what is still quiet after it. -/
theorem quietFor_succ {s : State} {n : Nat} (h : s.quietFor (n + 1)) :
    s.pins.rst = false ∧ s.pins.start = false ∧ ∀ x : State, x.schedule = s.schedule → x.nextTick.quietFor n := by
  obtain ⟨hlen, hquiet⟩ := h
  obtain ⟨hrst, hstart⟩ := hquiet s.pins (by simp [State.upcoming])
  refine ⟨hrst, hstart, fun x hx => ?_⟩
  cases hsch : s.schedule with
  | nil =>
    obtain rfl : n = 0 := by simpa [State.upcoming, hsch] using hlen
    exact ⟨Nat.zero_le _, by simp⟩
  | cons p ps =>
    have hupcoming : x.nextTick.upcoming = s.schedule := by
      rw [State.upcoming, nextTick_pins_scheduled x p ps (hx.trans hsch), nextTick_schedule, hx, hsch, List.tail_cons]
    rw [State.quietFor, hupcoming]
    exact ⟨Nat.le_of_succ_le_succ hlen, fun p hp => hquiet p (List.mem_cons_of_mem _ hp)⟩

/-- Each quiet tick of `IDLE` clears `done`, and nothing else of the block changes. -/
theorem runsTo_quiet {n : Nat} {s : State} (h : s.phase = .idle) (hq : s.quietFor (n + 1)) :
    ∃ t, RunsTo (n + 1) s t ∧ t.block = s.clearDone.block := by
  induction n generalizing s with
  | zero =>
    obtain ⟨hrst, hstart, -⟩ := quietFor_succ hq
    exact ⟨_, runsTo_one (step_idle_nop s hrst h hstart), block_nextTick _⟩
  | succ n ih =>
    obtain ⟨hrst, hstart, hrest⟩ := quietFor_succ hq
    obtain ⟨t, hrun, hblock⟩ := ih (s := s.clearDone.nextTick) ((nextTick_phase _).trans h) (hrest s.clearDone rfl)
    refine ⟨t, runsTo_succ (step_idle_nop s hrst h hstart) hrun, hblock.trans ?_⟩
    simp [block_eq_iff]

/-- Settles O2, by induction on the number of ticks. -/
theorem nopTicksKeepTheBlock : Obligations.NopTicksKeepTheBlock := by
  unfold Obligations.NopTicksKeepTheBlock
  refine ⟨⟨rfl, rfl⟩, fun s n h hn hlen hquiet => ⟨exec_nop_idle h, ?_⟩⟩
  obtain ⟨m, rfl⟩ := Nat.exists_eq_add_of_le' hn
  exact runsTo_quiet h ⟨hlen, hquiet⟩

end Sys2Proof.Machine
end

section
/-! The ends of a read: the seven completions and their causes (spec/40_command.md R85, spec/60_exceptions.md R135 to
R138), and two reads that hear one line, tick by tick (R88). -/

namespace Sys2Proof.Machine

/-! ### The seven completions -/

/-- A tick of a busy phase completes the read, or the block stays busy; only a completion writes `status`. -/
theorem Effect.completes_or_keeps {s x : State} (h : Effect s x) :
    (s.phase ≠ .idle ∧ ∃ (y : State) (k : ResultKind), x = y.complete k) ∨
    (x.status = s.status ∧ (s.phase ≠ .idle → x.phase ≠ .idle)) := by
  cases h with
  | fail k hp _ => exact .inl ⟨fun hidle => by simp [hidle] at hp, s, k, rfl⟩
  | deliver hp _ => exact .inl ⟨by simp [hp], s.storeReading, .ok, rfl⟩
  | nop hp | accept hp => exact .inr ⟨rfl, fun hbusy => absurd hp hbusy⟩
  | stay hbusy _ _ => exact .inr ⟨rfl, fun _ => hbusy⟩
  | move q hq =>
    have key : ∀ m ∈ plainMoves, m.2 ≠ .idle := by decide
    exact .inr ⟨rfl, fun _ => key _ hq⟩
  | respond | startDecode | shift | countBit | nextByte | lastByte => exact .inr ⟨rfl, fun _ hidle => by cases hidle⟩

/-- Four phases of the table lead back to `IDLE`. -/
theorem phaseMoves_to_idle {p : Phase} (h : (p, Phase.idle) ∈ phaseMoves) :
    p = .hsRelease ∨ p = .bitWaitHigh ∨ p = .bitWaitLow ∨ p = .validate := by
  have key : ∀ m ∈ phaseMoves, m.2 = .idle →
      m.1 = .hsRelease ∨ m.1 = .bitWaitHigh ∨ m.1 = .bitWaitLow ∨ m.1 = .validate := by decide
  exact key _ h rfl

theorem bitComplete_phase_ne_idle (s : State) : s.bitComplete.phase ≠ .idle := by
  obtain ⟨-, h⟩ | ⟨-, -, h⟩ | ⟨-, -, h⟩ := bitComplete_cases s <;> simp [h]

theorem level_eq_high_of_ne_low {l : Level} (h : l ≠ .low) : l = .high := by
  cases l with
  | low => exact absurd rfl h
  | high => rfl

theorem level_eq_low_of_ne_high {l : Level} (h : l ≠ .high) : l = .low := by
  cases l with
  | low => rfl
  | high => exact absurd rfl h

theorem response_eq_failure_of_ne_success {r : Response} (h : r ≠ .success) : r = .failure := by
  cases r with
  | failure => rfl
  | success => exact absurd rfl h

section Ends
variable {s t : State} (hr : s.pins.rst = false) (h : step s = .next t)
include hr h

/-- R94: without a SUCCESS the read ends with `NO_RESPONSE`, on Low or at the deadline; with one it ends at the
deadline only, with `TIMEOUT`. -/
theorem hsRelease_ends (hp : s.phase = .hsRelease) (ht : t.phase = .idle) :
    (t.status = .noResponse ∧ s.respOk = .failure ∧ s.pins.lineIn = .low) ∨
    (t.status = .noResponse ∧ s.respOk = .failure ∧ s.pins.lineIn = .high ∧ s.cnt + 1 = s.params.tTimeout) ∨
    (t.status = .timeout ∧ s.respOk = .success ∧ s.pins.lineIn = .high ∧ s.cnt + 1 = s.params.tTimeout) := by
  rw [step_hsRelease s hr hp] at h
  obtain rfl := next_injective h
  rw [nextTick_phase] at ht
  rw [nextTick_status]
  split_ifs at ht ⊢ with hlow hresp hdeadline hresp
  · exact absurd ht (by simp)
  · exact .inl ⟨rfl, response_eq_failure_of_ne_success hresp, hlow⟩
  · exact .inr (.inr ⟨rfl, hresp, level_eq_high_of_ne_low hlow, hdeadline⟩)
  · exact .inr (.inl ⟨rfl, response_eq_failure_of_ne_success hresp, level_eq_high_of_ne_low hlow, hdeadline⟩)
  · exact absurd ht (by simp [hp])

/-- R105: the wait for High ends the read at the deadline. -/
theorem bitWaitHigh_ends (hp : s.phase = .bitWaitHigh) (ht : t.phase = .idle) :
    t.status = .timeout ∧ s.pins.lineIn = .low ∧ s.cnt + 1 = s.params.tTimeout := by
  rw [step_bitWaitHigh s hr hp] at h
  obtain rfl := next_injective h
  rw [nextTick_phase] at ht
  rw [nextTick_status]
  split_ifs at ht ⊢ with hhigh hdeadline
  · exact absurd ht (by simp)
  · exact ⟨rfl, level_eq_low_of_ne_high hhigh, hdeadline⟩
  · exact absurd ht (by simp [hp])

/-- R107: so does the wait for Low. -/
theorem bitWaitLow_ends (hp : s.phase = .bitWaitLow) (ht : t.phase = .idle) :
    t.status = .timeout ∧ s.pins.lineIn = .high ∧ s.cnt + 1 = s.params.tTimeout := by
  rw [step_bitWaitLow s hr hp] at h
  obtain rfl := next_injective h
  rw [nextTick_phase] at ht
  rw [nextTick_status]
  split_ifs at ht ⊢ with hlow hdeadline
  · exact absurd ht (bitComplete_phase_ne_idle s)
  · exact ⟨rfl, level_eq_high_of_ne_low hlow, hdeadline⟩
  · exact absurd ht (by simp [hp])

/-- R120: `VALIDATE` ends the read in one tick, by the checksum. -/
theorem validate_ends (hp : s.phase = .validate) :
    (t.status = .ok ∧ frameValid s.frame = true) ∨ (t.status = .checksumMismatch ∧ frameValid s.frame = false) := by
  rw [step_validate s hr hp] at h
  obtain rfl := next_injective h
  rw [nextTick_status]
  split_ifs with hvalid
  · exact .inl ⟨rfl, hvalid⟩
  · exact .inr ⟨rfl, Bool.eq_false_of_not_eq_true hvalid⟩

end Ends

/-- Settles O44: the table names the four phases that a read can end in, and each of them its causes. -/
theorem sevenCompletionsAndTheirCauses : Obligations.SevenCompletionsAndTheirCauses := by
  unfold Obligations.SevenCompletionsAndTheirCauses
  intro s t hr h
  obtain ⟨x, hx, rfl⟩ := step_effect hr h
  have hends := hx.completes_or_keeps
  refine ⟨fun hbusy ht => ?_, fun hkept => ?_⟩
  · obtain ⟨-, y, k, rfl⟩ | ⟨-, hstays⟩ := hends
    · refine ⟨by simp, by simp, ?_⟩
      have hmove := phaseMove_of_step hr h (ht ▸ hbusy.symm)
      obtain hp | hp | hp | hp := phaseMoves_to_idle (ht ▸ hmove)
      · obtain ⟨hstatus, hcause⟩ | ⟨hstatus, hcause⟩ | ⟨hstatus, hcause⟩ := hsRelease_ends hr h hp ht
        · exact .inr (.inr (.inl ⟨hstatus, hp, hcause⟩))
        · exact .inr (.inr (.inr (.inl ⟨hstatus, hp, hcause⟩)))
        · exact .inr (.inr (.inr (.inr (.inl ⟨hstatus, hp, hcause⟩))))
      · obtain ⟨hstatus, hcause⟩ := bitWaitHigh_ends hr h hp ht
        exact .inr (.inr (.inr (.inr (.inr (.inl ⟨hstatus, hp, hcause⟩)))))
      · obtain ⟨hstatus, hcause⟩ := bitWaitLow_ends hr h hp ht
        exact .inr (.inr (.inr (.inr (.inr (.inr ⟨hstatus, hp, hcause⟩)))))
      · obtain ⟨hstatus, hmatch⟩ | ⟨hstatus, hmismatch⟩ := validate_ends hr h hp
        · exact .inl ⟨hstatus, hp, hmatch⟩
        · exact .inr (.inl ⟨hstatus, hp, hmismatch⟩)
    · exact absurd ((nextTick_phase x).symm.trans ht) (hstays hbusy)
  · obtain ⟨hbusy, y, k, rfl⟩ | ⟨hstatus, -⟩ := hends
    · exact absurd hkept (by simp [hbusy])
    · exact (nextTick_status x).trans hstatus

/-! ### Two reads along one line (R88) -/

/-- A step that leads from a busy phase to a state with `done` at 1 ended the read, and no other did. -/
theorem done_iff_idle_of_step {s t : State} (hr : s.pins.rst = false) (hbusy : s.phase ≠ .idle) (hdone : s.done = false)
    (h : step s = .next t) : t.done = true ↔ t.phase = .idle := by
  obtain ⟨x, hx, rfl⟩ := step_effect hr h
  rw [nextTick_done, nextTick_phase]
  exact (hx.done_iff fun _ => hdone).trans (and_iff_right hbusy)

/-- Two blocks in the same read: they agree, and each shows `done` when it has ended and not before. -/
structure InOneRead (s t : State) : Prop where
  agree : AgreeAfterTick s t
  done_left : s.done = true ↔ s.phase = .idle
  done_right : t.done = true ↔ t.phase = .idle

/-- The tick that accepts the command begins the read in both blocks. -/
theorem inOneRead_accept {s1 s2 : State} (h : s1.params = s2.params) (v : Variant) :
    InOneRead (s1.acceptRead v).nextTick (s2.acceptRead v).nextTick where
  agree := AgreeAfterTick.nextTick ⟨sameRead_acceptRead h v, fun hidle => by cases hidle⟩
  done_left := by simp
  done_right := by simp

/-- A busy tick that shows both blocks the same level keeps them in one read. -/
theorem InOneRead.after_tick {s1 s2 : State} (h : InOneRead s1 s2) (hr1 : s1.pins.rst = false) (hr2 : s2.pins.rst = false)
    (hbusy : s1.phase ≠ .idle) (hline : s1.pins.lineIn = s2.pins.lineIn) :
    ∃ t1 t2, step s1 = .next t1 ∧ step s2 = .next t2 ∧ InOneRead t1 t2 := by
  obtain ⟨t1, h1⟩ := everyStateHasANextState s1
  obtain ⟨t2, h2⟩ := everyStateHasANextState s2
  obtain ⟨⟨hsame, -⟩, hdone1, hdone2⟩ := h
  have hbusy2 : s2.phase ≠ .idle := hsame.1 ▸ hbusy
  have notDone {s : State} (hdone : s.done = true ↔ s.phase = .idle) (hs : s.phase ≠ .idle) : s.done = false :=
    Bool.eq_false_of_not_eq_true (mt hdone.mp hs)
  exact ⟨t1, t2, h1, h2, hsame.step_busy hr1 hr2 hbusy hline h1 h2,
    done_iff_idle_of_step hr1 hbusy (notDone hdone1 hbusy) h1,
    done_iff_idle_of_step hr2 hbusy2 (notDone hdone2 hbusy2) h2⟩

/-- What a run of `n + 1` ticks reaches is what `n` ticks reach from the state after the first. -/
theorem runsTo_tail {n : Nat} {s u t : State} (h : step s = .next u) (hr : RunsTo (n + 1) s t) : RunsTo n u t := by
  simpa [RunsTo, Host.Core.run, Sys2Proof.core, h] using hr

/-- Two blocks in one read are still in one read when a line has been played to both, if the first was busy on each of
its ticks. -/
theorem InOneRead.run {line : List Level} {s1 s2 : State} (h : InOneRead s1 s2) (hh1 : s1.hears line) (hh2 : s2.hears line)
    (hbusy : ∀ k < line.length, ∃ u, RunsTo k s1 u ∧ busy u = true) :
    ∃ t1 t2, RunsTo line.length s1 t1 ∧ RunsTo line.length s2 t2 ∧ InOneRead t1 t2 := by
  induction line generalizing s1 s2 with
  | nil => exact ⟨s1, s2, runsTo_zero s1, runsTo_zero s2, h⟩
  | cons l line ih =>
    obtain ⟨hr1, hl1, -⟩ := hears_cons hh1
    obtain ⟨hr2, hl2, -⟩ := hears_cons hh2
    have hs1 : s1.phase ≠ .idle := by
      obtain ⟨u, hrun, hu⟩ := hbusy 0 (by simp)
      rw [runsTo_unique (runsTo_zero s1) hrun]
      simpa [busy] using hu
    obtain ⟨u1, u2, hstep1, hstep2, hread⟩ := h.after_tick hr1 hr2 hs1 (hl1.trans hl2.symm)
    have hrest (k : Nat) (hk : k < line.length) : ∃ u, RunsTo k u1 u ∧ busy u = true := by
      obtain ⟨u, hrun, hu⟩ := hbusy (k + 1) (by simpa using hk)
      exact ⟨u, runsTo_tail hstep1 hrun, hu⟩
    obtain ⟨t1, t2, hrun1, hrun2, hend⟩ := ih hread (hears_of_step hh1 hstep1) (hears_of_step hh2 hstep2) hrest
    exact ⟨t1, t2, runsTo_succ hstep1 hrun1, runsTo_succ hstep2 hrun2, hend⟩

/-- Settles O33: the accepting ticks begin one read in both blocks, and the common line keeps them in it. -/
theorem readDependsOnTheLineAlone : Obligations.ReadDependsOnTheLineAlone := by
  unfold Obligations.ReadDependsOnTheLineAlone
  intro s1 s2 v l1 l2 line haccept1 haccept2 hparams hh1 hh2 hbusy
  have hstep1 := step_acceptsRead haccept1
  have hstep2 := step_acceptsRead haccept2
  have hrest (k : Nat) (hk : k < line.length) : ∃ u, RunsTo k (s1.acceptRead v).nextTick u ∧ busy u = true := by
    obtain ⟨u, hrun, hu⟩ := hbusy (k + 1) (by omega) hk
    exact ⟨u, runsTo_tail hstep1 hrun, hu⟩
  obtain ⟨t1, t2, hrun1, hrun2, ⟨hsame, hend⟩, hdone1, hdone2⟩ :=
    (inOneRead_accept hparams v).run (hears_of_step hh1 hstep1) (hears_of_step hh2 hstep2) hrest
  have hdone : t1.done = t2.done := by rw [Bool.eq_iff_iff, hdone1, hdone2, hsame.1]
  refine ⟨t1, t2, runsTo_succ hstep1 hrun1, runsTo_succ hstep2 hrun2, hsame, hdone, fun h => ?_, fun h => ?_⟩
  · obtain ⟨-, -, hstatus, -⟩ := hend (hdone1.mp h)
    exact hstatus
  · obtain ⟨-, -, -, hreading⟩ := hend (hdone1.mp h)
    exact hreading

end Sys2Proof.Machine
end

section
/-! The handshake, one tick at a time (spec/41_handshake.md R90 to R94): what each of its five operations answers, and
which elements none of them writes (R96). -/

namespace Sys2Proof.Machine

/-! ### What one tick answers -/

/-- What the first acknowledgment sample makes of the state: High is FAILURE and skips the second sample (R92). -/
def State.firstAck (s : State) (sample : Level) : State :=
  if sample = .high then (s.setResponse .failure).goto .hsRelease else s.goto .hsWait2

/-- What the second acknowledgment sample makes of the state (R93). -/
def State.secondAck (s : State) (sample : Level) : State := (s.setResponse (responseOf sample)).goto .hsRelease

/-- What `HS_RELEASE` makes of the state when it sees Low (R94). -/
def State.released (s : State) : State :=
  if s.respOk = .success then s.goto .bitWaitHigh else s.complete .noResponse

/-- What `HS_RELEASE` makes of the state at its deadline (R94). -/
def State.releaseExpired (s : State) : State :=
  if s.respOk = .success then s.complete .timeout else s.complete .noResponse

theorem holdTime_eq_ite (p : Params) (v : Variant) :
    holdTime p v = if v = .variantA then p.tHoldA else p.tHoldB := by
  cases v <;> rfl

theorem responseOf_eq_ite (l : Level) : responseOf l = if l = .high then .success else .failure := by
  cases l <;> rfl

section Answers
variable (s : State)

theorem exec_hsLow :
    exec .hsLow s = .next (if s.cnt + 1 = holdTime s.params s.variantQ then s.goto .hsHigh else s.stay) :=
  congrArg _ (if_congr (lastTickOf_iff s _) rfl rfl)

theorem exec_hsHigh : exec .hsHigh s = .next (if s.cnt + 1 = s.params.tReady then s.goto .hsWait1 else s.stay) :=
  congrArg _ (if_congr (lastTickOf_iff s _) rfl rfl)

theorem exec_hsWait1 :
    exec .hsWait1 s = .next (if s.cnt = s.params.tAck1 then s.firstAck s.pins.lineIn else s.stay) := by
  refine congrArg _ (if_congr (elapsed_iff s _) ?_ rfl)
  cases h : s.pins.lineIn <;> simp [lineSample, State.firstAck, h]

theorem exec_hsWait2 :
    exec .hsWait2 s = .next (if s.cnt + 1 = s.params.tAck2 then s.secondAck s.pins.lineIn else s.stay) :=
  congrArg _ (if_congr (lastTickOf_iff s _) rfl rfl)

/-- R94: the level is tested before the deadline. -/
theorem exec_hsRelease :
    exec .hsRelease s = .next
      (if s.pins.lineIn = .low then s.released
       else if s.cnt + 1 = s.params.tTimeout then s.releaseExpired else s.stay) := by
  cases hl : s.pins.lineIn <;> cases hk : s.respOk <;>
    simp [exec, execHsRelease, lineSample, lastTickOf_iff, State.released, State.releaseExpired, hl, hk]

end Answers

/-- Settles O7, by the answers of the two drives. -/
theorem timedDrivesAdvance : Obligations.TimedDrivesAdvance := by
  unfold Obligations.TimedDrivesAdvance
  intro s
  rw [← holdTime_eq_ite]
  exact ⟨exec_hsLow s, exec_hsHigh s⟩

/-- Settles O8, by the answers of the two samples. -/
theorem acknowledgmentSamplesDecide : Obligations.AcknowledgmentSamplesDecide := by
  unfold Obligations.AcknowledgmentSamplesDecide
  intro s
  rw [← responseOf_eq_ite]
  exact ⟨exec_hsWait1 s, exec_hsWait2 s⟩

/-- Settles O9: the level decides, then the deadline, and of what ends the phase the response. -/
theorem releaseTickOutcomes : Obligations.ReleaseTickOutcomes := by
  unfold Obligations.ReleaseTickOutcomes
  intro s
  rw [exec_hsRelease]
  refine ⟨fun hl hr => ?_, fun hl hr => ?_, fun hl hc hr => ?_, fun hl hc hr => ?_, fun hl hc => ?_⟩
  · simp [hl, State.released, hr, State.goto]
  · simp [hl, State.released, hr, State.complete, ResultKind.status]
  · simp [hl, hc, State.releaseExpired, hr, State.complete, ResultKind.status]
  · simp [hl, hc, State.releaseExpired, hr, State.complete, ResultKind.status]
  · simp [hl, hc, State.stay]

/-! ### What no operation of the handshake writes (R96) -/

/-- The two states differ at most in `phase`, `cnt`, `resp_ok`, `status` and `done`. -/
def HandshakeFrame (s t : State) : Prop :=
  t = { s with phase := t.phase, cnt := t.cnt, respOk := t.respOk, status := t.status, done := t.done }

theorem handshakeFrame_stay (s : State) : HandshakeFrame s s.stay := rfl

theorem handshakeFrame_goto (s : State) (p : Phase) : HandshakeFrame s (s.goto p) := rfl

theorem handshakeFrame_respond (s : State) (r : Response) (p : Phase) :
    HandshakeFrame s ((s.setResponse r).goto p) := rfl

theorem handshakeFrame_complete (s : State) (k : ResultKind) : HandshakeFrame s (s.complete k) := rfl

theorem handshakeFrame_ite {s a b : State} {c : Prop} [Decidable c] (ha : HandshakeFrame s a)
    (hb : HandshakeFrame s b) : HandshakeFrame s (if c then a else b) := by
  split
  · exact ha
  · exact hb

theorem exec_handshakeFrame {i : Instr} {s t : State}
    (hi : i = .hsLow ∨ i = .hsHigh ∨ i = .hsWait1 ∨ i = .hsWait2 ∨ i = .hsRelease) (h : exec i s = .next t) :
    HandshakeFrame s t := by
  have stay := handshakeFrame_stay s
  have goto := handshakeFrame_goto s
  have respond := handshakeFrame_respond s
  have complete := handshakeFrame_complete s
  obtain rfl | rfl | rfl | rfl | rfl := hi
  · obtain rfl := next_injective ((exec_hsLow s).symm.trans h)
    exact handshakeFrame_ite (goto _) stay
  · obtain rfl := next_injective ((exec_hsHigh s).symm.trans h)
    exact handshakeFrame_ite (goto _) stay
  · obtain rfl := next_injective ((exec_hsWait1 s).symm.trans h)
    exact handshakeFrame_ite (handshakeFrame_ite (respond _ _) (goto _)) stay
  · obtain rfl := next_injective ((exec_hsWait2 s).symm.trans h)
    exact handshakeFrame_ite (respond _ _) stay
  · obtain rfl := next_injective ((exec_hsRelease s).symm.trans h)
    exact handshakeFrame_ite (handshakeFrame_ite (goto _) (complete _))
      (handshakeFrame_ite (handshakeFrame_ite (complete _) (complete _)) stay)

end Sys2Proof.Machine
end

section
/-! The handshake along a line (spec/41_handshake.md R90 to R96): how long each of its five phases lasts and what it has
become of the block when it ends, and from them the six outcomes of the handshake. -/

namespace Sys2Proof.Machine

/-! ### A phase that waits -/

/-- From `x` on, the phase stays on every tick of the line `ls`. -/
def State.WaitsOn (x : State) (ls : List Level) : Prop :=
  ∀ k < ls.length, ∀ e : State, e.pins.rst = false → e.pins.lineIn ∈ ls →
    step (x.counted k e) = .next (x.counted k e).stay.nextTick

/-- A phase that waits counts its ticks, and no other element of the block changes. -/
theorem State.WaitsOn.counts {x : State} {ls rest : List Level} (h : x.WaitsOn ls) (hc : x.cnt = 0)
    (hh : x.hears (ls ++ rest)) {k : Nat} (hk : k ≤ ls.length) :
    ∃ t, RunsTo k x t ∧ t.block = ({ x with cnt := k } : State).block := by
  have hstay (j : Nat) (l : Level) (u : State) (hj : ls[j]? = some l)
      (hb : u.block = ({ x with cnt := x.cnt + j } : State).block) (hr : u.pins.rst = false) (hl : u.pins.lineIn = l) :
      step u = .next u.stay.nextTick := by
    obtain ⟨hj', -⟩ := List.getElem?_eq_some_iff.mp hj
    rw [eq_counted hb]
    exact h j hj' u hr (hl ▸ List.mem_of_getElem? hj)
  obtain ⟨t, hrun, hb, -⟩ := stays_while ls rest hh hstay k hk
  exact ⟨t, hrun, by rwa [hc, Nat.zero_add] at hb⟩

theorem phase_of_block_eq {s t : State} (h : t.block = s.block) : t.phase = s.phase := ((block_eq_iff t s).mp h).1

/-- A line of at least one tick, and the level of its last. -/
theorem exists_last_level {line : List Level} {n : Nat} (hn : 1 ≤ n) (hlen : line.length = n) :
    ∃ (ls : List Level) (l : Level), ls.length + 1 = n ∧ line = ls ++ [l] := by
  obtain rfl | ⟨ls, l, rfl⟩ := line.eq_nil_or_concat'
  · rw [List.length_nil] at hlen
    omega
  · exact ⟨ls, l, by simpa using hlen, rfl⟩

theorem noReset_hears_last {s : State} {n : Nat} (hn : 1 ≤ n) (h : s.noReset n) :
    ∃ (ls : List Level) (l : Level), ls.length + 1 = n ∧ s.hears (ls ++ [l]) := by
  obtain ⟨line, hline, hh⟩ := noReset_hears h
  obtain ⟨ls, l, hlen, rfl⟩ := exists_last_level hn hline
  exact ⟨ls, l, hlen, hh⟩

/-! ### The five phases -/

section HandshakePhases
variable {x : State} (hc : x.cnt = 0)
include hc

theorem hsLow_waitsOn (hp : x.phase = .hsLow) {ls : List Level} (hlen : ls.length < holdTime x.params x.variantQ) :
    x.WaitsOn ls := fun k hk e hr _ => by
  rw [step_hsLow (x.counted k e) hr hp, if_neg (by rw [counted_cnt]; change _ ≠ holdTime x.params x.variantQ; omega)]

theorem hsHigh_waitsOn (hp : x.phase = .hsHigh) {ls : List Level} (hlen : ls.length < x.params.tReady) :
    x.WaitsOn ls := fun k hk e hr _ => by
  rw [step_hsHigh (x.counted k e) hr hp, if_neg (by simp; omega)]

theorem hsWait1_waitsOn (hp : x.phase = .hsWait1) {ls : List Level} (hlen : ls.length ≤ x.params.tAck1) :
    x.WaitsOn ls := fun k hk e hr _ =>
  step_beforeSample hr (.inl ⟨hp, by simp; omega⟩)

theorem hsWait2_waitsOn (hp : x.phase = .hsWait2) {ls : List Level} (hlen : ls.length < x.params.tAck2) :
    x.WaitsOn ls := fun k hk e hr _ =>
  step_beforeSample hr (.inr (.inl ⟨hp, by simp; omega⟩))

theorem hsRelease_waitsOn (hp : x.phase = .hsRelease) {n : Nat} (hn : n < x.params.tTimeout) :
    x.WaitsOn (List.replicate n .high) := fun k hk e hr hl => by
  rw [List.length_replicate] at hk
  have hhigh : e.pins.lineIn = .high := List.eq_of_mem_replicate hl
  rw [step_hsRelease (x.counted k e) hr hp, if_neg (by simp [hhigh]), if_neg (by simp; omega)]

/-- R90: the start pulse. -/
theorem hsLow_leadsTo (hp : x.phase = .hsLow) {ls : List Level} (hlen : ls.length + 1 = holdTime x.params x.variantQ)
    (l : Level) (rest : List Level) :
    LeadsTo (holdTime x.params x.variantQ) x (ls ++ l :: rest) (x.goto .hsHigh) rest := by
  refine leadsTo_of_stretch (State.goto · .hsHigh) hlen rest (fun _ _ => rfl) (hsLow_waitsOn hc hp (by omega))
    fun e hr _ => ?_
  rw [step_hsLow (x.counted _ e) hr hp, if_pos (by rw [counted_cnt]; change _ = holdTime x.params x.variantQ; omega)]

/-- R91: the ready pulse. -/
theorem hsHigh_leadsTo (hp : x.phase = .hsHigh) {ls : List Level} (hlen : ls.length + 1 = x.params.tReady)
    (l : Level) (rest : List Level) : LeadsTo x.params.tReady x (ls ++ l :: rest) (x.goto .hsWait1) rest := by
  refine leadsTo_of_stretch (State.goto · .hsWait1) hlen rest (fun _ _ => rfl) (hsHigh_waitsOn hc hp (by omega))
    fun e hr _ => ?_
  rw [step_hsHigh (x.counted _ e) hr hp, if_pos (by simp; omega)]

/-- R92: `T_ACK1` ticks, and then the first sample. -/
theorem hsWait1_leadsTo (hp : x.phase = .hsWait1) {waited : List Level} (hlen : waited.length = x.params.tAck1)
    (sample : Level) (rest : List Level) :
    LeadsTo (x.params.tAck1 + 1) x (waited ++ sample :: rest) (x.firstAck sample) rest := by
  refine leadsTo_of_stretch (State.firstAck · sample) (congrArg (· + 1) hlen) rest (fun k e => ?_)
    (hsWait1_waitsOn hc hp hlen.le) fun e hr hl => ?_
  · cases sample <;> rfl
  · rw [step_hsWait1 (x.counted _ e) hr hp, if_pos (by simp; omega), ← hl]
    rfl

/-- R93: the second sample is that of the last of `T_ACK2` ticks. -/
theorem hsWait2_leadsTo (hp : x.phase = .hsWait2) {waited : List Level} (hlen : waited.length + 1 = x.params.tAck2)
    (sample : Level) (rest : List Level) :
    LeadsTo x.params.tAck2 x (waited ++ sample :: rest) (x.secondAck sample) rest := by
  refine leadsTo_of_stretch (State.secondAck · sample) hlen rest (fun _ _ => rfl)
    (hsWait2_waitsOn hc hp (by omega)) fun e hr hl => ?_
  rw [step_hsWait2 (x.counted _ e) hr hp, if_pos (by simp; omega), ← hl]
  rfl

/-- R94: fewer than `T_TIMEOUT` ticks of High, then Low. -/
theorem hsRelease_leadsTo_low (hp : x.phase = .hsRelease) {n : Nat} (hn : n < x.params.tTimeout) (rest : List Level) :
    LeadsTo (n + 1) x (List.replicate n .high ++ .low :: rest) x.released rest := by
  refine leadsTo_of_stretch State.released (by simp) rest (fun k e => ?_) (hsRelease_waitsOn hc hp hn) fun e hr hl => ?_
  · rw [State.released, State.released, apply_ite State.block, apply_ite State.block]
    rfl
  · rw [step_hsRelease (x.counted _ e) hr hp, if_pos (by simpa using hl)]
    rfl

/-- R94: `T_TIMEOUT` ticks of High. -/
theorem hsRelease_leadsTo_deadline (hp : x.phase = .hsRelease) (hpos : 1 ≤ x.params.tTimeout) (rest : List Level) :
    LeadsTo x.params.tTimeout x (List.replicate x.params.tTimeout .high ++ rest) x.releaseExpired rest := by
  obtain ⟨n, hn⟩ := Nat.exists_eq_add_of_le' hpos
  rw [hn, List.replicate_succ', List.append_assoc, List.singleton_append]
  refine leadsTo_of_stretch State.releaseExpired (by simp) rest (fun k e => ?_) (hsRelease_waitsOn hc hp (by omega))
    fun e hr hl => ?_
  · rw [State.releaseExpired, State.releaseExpired, apply_ite State.block, apply_ite State.block]
    rfl
  · rw [step_hsRelease (x.counted _ e) hr hp, if_neg (by simp [hl]), if_pos (by simp; omega)]
    rfl

end HandshakePhases

/-- Settles O14: the phase counts on every tick but its last, and the line is driven by the phase alone. -/
theorem startPulseLastsTheHoldTime : Obligations.StartPulseLastsTheHoldTime := by
  unfold Obligations.StartPulseLastsTheHoldTime
  refine ⟨⟨rfl, rfl⟩, fun s hp hc hpos hquiet => ?_⟩
  obtain ⟨ls, l, hlen, hh⟩ := noReset_hears_last hpos hquiet
  refine ⟨fun k hk => ?_, ?_⟩
  · obtain ⟨t, hrun, hb⟩ := (hsLow_waitsOn hc hp (by omega)).counts hc hh (k := k) (by omega)
    have htp : t.phase = .hsLow := (phase_of_block_eq hb).trans hp
    exact ⟨t, hrun, hb, (lineOe_eq_output_iff t).mpr (.inl htp), (lineOut_eq_low_iff t).mpr htp⟩
  · obtain ⟨t, hrun, hb, -⟩ := hsLow_leadsTo hc hp hlen l [] s rfl hh
    exact ⟨t, hrun, hb⟩

/-- Settles O15, as O14; the phase that follows does not drive. -/
theorem readyPulseThenInput : Obligations.ReadyPulseThenInput := by
  unfold Obligations.ReadyPulseThenInput
  refine ⟨rfl, fun s hp hc hpos hquiet => ?_⟩
  obtain ⟨ls, l, hlen, hh⟩ := noReset_hears_last hpos hquiet
  refine ⟨fun k hk => ?_, ?_⟩
  · obtain ⟨t, hrun, hb⟩ := (hsHigh_waitsOn hc hp (by omega)).counts hc hh (k := k) (by omega)
    have htp : t.phase = .hsHigh := (phase_of_block_eq hb).trans hp
    exact ⟨t, hrun, hb, (lineOe_eq_output_iff t).mpr (.inr htp), (lineOut_eq_high_iff t).mpr (by simp [htp])⟩
  · obtain ⟨t, hrun, hb, -⟩ := hsHigh_leadsTo hc hp hlen l [] s rfl hh
    have htp : t.phase = .hsWait1 := phase_of_block_eq hb
    exact ⟨t, hrun, hb, (lineOe_eq_input_iff t).mpr (by simp [htp])⟩

/-- Settles O16: the phase waits on the levels before the sample, whatever they are. -/
theorem firstSampleAfterFortyTicks : Obligations.FirstSampleAfterFortyTicks := by
  unfold Obligations.FirstSampleAfterFortyTicks
  refine ⟨rfl, fun s waited sample hp hc hlen hh => ⟨fun k hk => ?_, ?_⟩⟩
  · obtain ⟨t, hrun, hb⟩ := (hsWait1_waitsOn hc hp hlen.le).counts hc hh (hk.trans_eq hlen.symm)
    have htp : t.phase = .hsWait1 := (phase_of_block_eq hb).trans hp
    exact ⟨t, hrun, hb, (lineOe_eq_input_iff t).mpr (by simp [htp])⟩
  · obtain ⟨t, hrun, hb, -⟩ := hsWait1_leadsTo hc hp hlen sample [] s rfl hh
    exact ⟨t, hrun, hb⟩

/-- Settles O17, as O16; the sample is that of the last tick of the phase. -/
theorem secondSampleOnTheLastTick : Obligations.SecondSampleOnTheLastTick := by
  unfold Obligations.SecondSampleOnTheLastTick
  refine ⟨rfl, fun s waited sample hp hc hlen hh => ⟨fun k hk => ?_, ?_⟩⟩
  · obtain ⟨t, hrun, hb⟩ := (hsWait2_waitsOn hc hp (by omega)).counts hc hh (k := k) (by omega)
    have htp : t.phase = .hsWait2 := (phase_of_block_eq hb).trans hp
    exact ⟨t, hrun, hb, (lineOe_eq_input_iff t).mpr (by simp [htp])⟩
  · obtain ⟨t, hrun, hb, -⟩ := hsWait2_leadsTo hc hp hlen sample [] s rfl hh
    rw [← responseOf_eq_ite]
    exact ⟨t, hrun, hb⟩

/-- The deadline of `HS_RELEASE`, with its status as one choice by the response. -/
theorem releaseExpired_eq (s : State) :
    s.releaseExpired =
      { s with
        status := if s.respOk = .success then .timeout else .noResponse
        done := true, phase := .idle, cnt := 0 } := by
  cases h : s.respOk <;> simp [State.releaseExpired, State.complete, ResultKind.status, h]

/-- Settles O18: the phase waits on High until the first Low, or until the deadline. -/
theorem releaseWaitIsBounded : Obligations.ReleaseWaitIsBounded := by
  unfold Obligations.ReleaseWaitIsBounded
  refine fun s hp hc hpos => ⟨fun n hn hh => ⟨fun k hk => ?_, ?_⟩, fun hh => ?_⟩
  · exact (hsRelease_waitsOn hc hp hn).counts hc hh (by simpa using hk)
  · obtain ⟨t, hrun, hb, -⟩ := hsRelease_leadsTo_low hc hp hn [] s rfl hh
    exact ⟨t, hrun, hb⟩
  · obtain ⟨t, hrun, hb, -⟩ := hsRelease_leadsTo_deadline hc hp hpos [] s rfl (by rwa [List.append_nil])
    exact ⟨t, hrun, releaseExpired_eq s ▸ hb⟩

/-! ### The handshake as a whole (R96) -/

section WholeHandshake
variable {x : State} (hc : x.cnt = 0) (hp : x.phase = .hsLow) (hpos : x.params.positive = true)
  {lead first : List Level} (hlead : lead.length = holdTime x.params x.variantQ + x.params.tReady)
  (hfirst : first.length = x.params.tAck1) (rest : List Level)
include hc hp hpos hlead

/-- The two drives: the line is not looked at. -/
theorem drives_leadsTo : LeadsTo lead.length x (lead ++ rest) (x.goto .hsWait1) rest := by
  have hhold := holdTime_pos hpos x.variantQ
  have hready : 1 ≤ x.params.tReady := by
    simp only [Params.positive, decide_eq_true_eq] at hpos
    omega
  obtain ⟨low, l, hlow, hlow_eq⟩ := exists_last_level (line := lead.take (holdTime x.params x.variantQ)) hhold
    (by rw [List.length_take]; omega)
  obtain ⟨high, l', hhigh, hhigh_eq⟩ := exists_last_level (line := lead.drop (holdTime x.params x.variantQ)) hready
    (by rw [List.length_drop]; omega)
  have hline : lead ++ rest = low ++ l :: (high ++ l' :: rest) := by
    rw [← List.take_append_drop (holdTime x.params x.variantQ) lead, hlow_eq, hhigh_eq]
    simp only [List.append_assoc, List.cons_append, List.nil_append]
  rw [hlead, hline]
  exact (hsLow_leadsTo hc hp hlow l _).trans (hsHigh_leadsTo (x := x.goto .hsHigh) rfl rfl hhigh l' rest)

include hfirst

/-- The drives, and the first sample. -/
theorem drives_leadsTo_firstAck (sample : Level) :
    LeadsTo (lead.length + (x.params.tAck1 + 1)) x (lead ++ (first ++ sample :: rest))
      ((x.goto .hsWait1).firstAck sample) rest :=
  (drives_leadsTo hc hp hpos hlead _).trans (hsWait1_leadsTo (x := x.goto .hsWait1) rfl rfl hfirst sample rest)

/-- The drives, a first sample of Low, and the second sample. -/
theorem drives_leadsTo_secondAck {second : List Level} (hsecond : second.length + 1 = x.params.tAck2) (sample : Level) :
    LeadsTo (lead.length + (x.params.tAck1 + 1) + x.params.tAck2) x
      (lead ++ (first ++ .low :: (second ++ sample :: rest))) (x.secondAck sample) rest :=
  (drives_leadsTo_firstAck hc hp hpos hlead hfirst _ .low).trans
    (hsWait2_leadsTo (x := x.goto .hsWait2) rfl rfl hsecond sample rest)

end WholeHandshake

section FromAcceptance
variable {s : State} {v : Variant} (haccept : s.acceptsRead v) {l : Level} {ls : List Level} (hh : s.hears (l :: ls))
include haccept hh

/-- A read from the tick that accepts its command: that tick, and then what the accepted read leads to. -/
theorem runsTo_of_accepted {n : Nat} {y : State} (h : LeadsTo n (s.acceptRead v) ls y []) :
    ∃ t, RunsTo (n + 1) s t ∧ t.block = y.block := by
  have hstep := step_acceptsRead haccept
  obtain ⟨t, hrun, hb, -⟩ := h _ (block_nextTick _) (hears_of_step hh hstep)
  exact ⟨t, runsTo_succ hstep hrun, hb⟩

/-- An accepted read that comes to `HS_RELEASE` and sees Low there in time. -/
theorem runsTo_released {k m n : Nat} {y z : State}
    (h : LeadsTo k (s.acceptRead v) ls y (List.replicate n .high ++ [.low])) (hp : y.phase = .hsRelease)
    (hc : y.cnt = 0) (hn : n < y.params.tTimeout) (hm : 1 + k + (n + 1) = m) (hz : y.released.block = z.block) :
    ∃ t, RunsTo m s t ∧ t.block = z.block := by
  obtain rfl : k + (n + 1) + 1 = m := by omega
  exact hz ▸ runsTo_of_accepted haccept hh (h.trans (hsRelease_leadsTo_low hc hp hn []))

/-- An accepted read that comes to `HS_RELEASE` and sees High there until the deadline. -/
theorem runsTo_releaseExpired {k m : Nat} {y z : State}
    (h : LeadsTo k (s.acceptRead v) ls y (List.replicate s.params.tTimeout .high)) (hp : y.phase = .hsRelease)
    (hc : y.cnt = 0) (hparams : y.params = s.params) (hpos : 1 ≤ s.params.tTimeout)
    (hm : 1 + k + s.params.tTimeout = m) (hz : y.releaseExpired.block = z.block) :
    ∃ t, RunsTo m s t ∧ t.block = z.block := by
  obtain rfl : k + s.params.tTimeout + 1 = m := by omega
  have hdeadline := hsRelease_leadsTo_deadline hc hp (hparams ▸ hpos) []
  rw [List.append_nil, hparams] at hdeadline
  exact hz ▸ runsTo_of_accepted haccept hh (h.trans hdeadline)

end FromAcceptance

/-- Settles O28: the accepting tick, the samples that the line asks for, and one of the two ends of `HS_RELEASE`. -/
theorem handshakeOutcomes : Obligations.HandshakeOutcomes := by
  unfold Obligations.HandshakeOutcomes
  refine ⟨?_, fun i s t hi h => exec_handshakeFrame hi h⟩
  rintro s v l lead first second s1 s2 n haccept hpos hn hlead hfirst hsecond start rfl
  have htimeout : 1 ≤ s.params.tTimeout := by omega
  have firstAck (rest : List Level) :
      LeadsTo (lead.length + (s.params.tAck1 + 1)) (s.acceptRead v) (lead ++ (first ++ .high :: rest))
        (((s.acceptRead v).setResponse .failure).goto .hsRelease) rest :=
    drives_leadsTo_firstAck (x := s.acceptRead v) rfl rfl hpos hlead hfirst rest .high
  have secondAck (rest : List Level) :
      LeadsTo (lead.length + (s.params.tAck1 + 1) + s.params.tAck2) (s.acceptRead v)
        (lead ++ (first ++ .low :: (second ++ s2 :: rest))) ((s.acceptRead v).secondAck s2) rest :=
    drives_leadsTo_secondAck (x := s.acceptRead v) rfl rfl hpos hlead hfirst rest hsecond s2
  refine ⟨?_, ?_, ?_, ?_⟩
  · rintro rfl hh
    exact runsTo_released haccept (by simpa using hh) (firstAck _) rfl rfl hn (by omega) rfl
  · rintro rfl hh
    exact runsTo_releaseExpired haccept (by simpa using hh) (firstAck _) rfl rfl rfl htimeout (by omega) rfl
  · rintro rfl hh
    exact runsTo_released haccept (by simpa using hh) (secondAck _) rfl rfl hn (by omega) (by cases s2 <;> rfl)
  · rintro rfl hh
    exact runsTo_releaseExpired haccept (by simpa using hh) (secondAck _) rfl rfl rfl htimeout (by omega)
      (by cases s2 <;> rfl)

end Sys2Proof.Machine
end

section
/-! The frame decode, one tick at a time (spec/42_frame_decode.md R105 to R107): what each of its three operations
answers, the shift register as a number (R110), and the frame position that a completed bit advances (R111). -/

namespace Sys2Proof.Machine

/-! ### What one tick answers -/

section DecodeAnswers
variable (s : State)

/-- R105: the level is tested before the deadline. -/
theorem exec_bitWaitHigh :
    exec .bitWaitHigh s = .next
      (if s.pins.lineIn = .high then s.goto .bitDelay
       else if s.cnt + 1 = s.params.tTimeout then s.complete .timeout else s.stay) := by
  cases hl : s.pins.lineIn <;> simp [exec, execBitWaitHigh, lineSample, lastTickOf_iff, hl]

theorem exec_bitDelay :
    exec .bitDelay s = .next
      (if s.cnt + 1 = s.params.tBit then (s.shiftBit s.pins.lineIn).goto .bitWaitLow else s.stay) :=
  congrArg _ (if_congr (lastTickOf_iff s _) rfl rfl)

/-- R107: here too the level is tested before the deadline. -/
theorem exec_bitWaitLow :
    exec .bitWaitLow s = .next
      (if s.pins.lineIn = .low then s.bitComplete
       else if s.cnt + 1 = s.params.tTimeout then s.complete .timeout else s.stay) := by
  cases hl : s.pins.lineIn <;> simp [exec, execBitWaitLow, lineSample, lastTickOf_iff, hl]

end DecodeAnswers

/-- The tick on which `BIT_WAIT_LOW` sees Low. -/
theorem exec_bitWaitLow_low {s : State} (h : s.pins.lineIn = .low) : exec .bitWaitLow s = .next s.bitComplete := by
  rw [exec_bitWaitLow, if_pos h]

/-- Settles O10: the level decides, then the deadline. -/
theorem bitWaitHighTickOutcomes : Obligations.BitWaitHighTickOutcomes := by
  unfold Obligations.BitWaitHighTickOutcomes
  intro s
  rw [exec_bitWaitHigh]
  refine ⟨fun hl => ?_, fun hl hc => ?_, fun hl hc => ?_⟩
  · simp [hl, State.goto]
  · simp [hl, hc, State.complete, ResultKind.status]
  · simp [hl, hc, State.stay]

/-! ### The shift register (R106, R110) -/

/-- A shift keeps the lower seven bits and appends the level below them. -/
theorem shiftIn_eq_append (sh : Byte) (b : Level) :
    shiftIn sh b = sh.extractLsb' 0 7 ++ (if b = .high then 1#1 else 0#1) := by
  have hbit : (if b = .high then 1#1 else 0#1) = b.bit := by cases b <;> rfl
  refine BitVec.eq_of_toNat_eq ?_
  rw [hbit, shiftIn_toNat, BitVec.toNat_append, ← Nat.shiftLeft_add_eq_or_of_lt b.bit.isLt, Nat.shiftLeft_eq,
    BitVec.extractLsb'_toNat, Nat.shiftRight_zero]
  have := b.bit.isLt
  omega

/-- The bit shifted in stands at the bottom. -/
theorem shiftIn_getLsbD_zero (sh : Byte) (b : Level) : (shiftIn sh b).getLsbD 0 = true ↔ b = .high := by
  cases b <;> simp [shiftIn, Level.bit]

/-- Settles O11: on the last tick of the phase the shift, by its two parts. -/
theorem bitDelayTickShifts : Obligations.BitDelayTickShifts := by
  unfold Obligations.BitDelayTickShifts
  intro s
  rw [exec_bitDelay, ← shiftIn_eq_append]
  rfl

/-! ### The end of a bit -/

/-- The frame store, read after a write. -/
theorem readByte_writeByte (f : RawFrame) (i j : ByteIdx) (b : Byte) :
    readByte (writeByte f i b) j = if j = i then b else readByte f j := by
  split_ifs with h
  · rw [h, readByte_writeByte_same]
  · exact readByte_writeByte_other f i j b h

/-- What the end of a bit makes of the state, every element written out (R107). -/
theorem bitComplete_eq_ite (s : State) : s.bitComplete =
    if s.bitCnt = 7 then
      (if s.byteIdx = 4 then
        { s with frame := writeByte s.frame s.byteIdx s.sh, bitCnt := 0, phase := .validate, cnt := 0 }
       else
        { s with
          frame := writeByte s.frame s.byteIdx s.sh, bitCnt := 0, byteIdx := s.byteIdx + 1
          phase := .bitWaitHigh, cnt := 0 })
    else { s with bitCnt := s.bitCnt + 1, phase := .bitWaitHigh, cnt := 0 } := rfl

/-- The frame store is written at the end of an eighth bit only, at `byte_idx`. -/
theorem readByte_bitComplete (s : State) (i : ByteIdx) :
    readByte s.bitComplete.frame i = if s.bitCnt = 7 ∧ i = s.byteIdx then s.sh else readByte s.frame i := by
  obtain ⟨hbit, h⟩ | ⟨hbit, -, h⟩ | ⟨hbit, -, h⟩ := bitComplete_cases s
  · simp [h, hbit]
  · simp [h, hbit, readByte_writeByte]
  · simp [h, hbit, readByte_writeByte]

/-- Settles O12: on Low the end of the bit, whose store is the witness of the new frame; on High the deadline. -/
theorem bitWaitLowTickOutcomes : Obligations.BitWaitLowTickOutcomes := by
  unfold Obligations.BitWaitLowTickOutcomes
  intro s
  refine ⟨fun hl hbit => ?_, fun hl hbit => ?_, fun hl hc => ?_, fun hl hc => ?_⟩
  · rw [exec_bitWaitLow_low hl, bitComplete_eq_ite, if_neg hbit]
  · refine ⟨writeByte s.frame s.byteIdx s.sh, readByte_writeByte_same _ _ _,
      fun i hi => readByte_writeByte_other _ _ i _ hi, ?_⟩
    rw [exec_bitWaitLow_low hl, bitComplete_eq_ite, if_pos hbit]
  · simp [exec_bitWaitLow, hl, hc, State.complete, ResultKind.status]
  · simp [exec_bitWaitLow, hl, hc, State.stay]

/-- Settles O25: each shift doubles the register modulo 256, so eight of them leave nothing of what it held; the byte is
stored by the end of its eighth bit. -/
theorem eightShiftsAssembleAByte : Obligations.EightShiftsAssembleAByte := by
  unfold Obligations.EightShiftsAssembleAByte
  intro sh b7 b6 b5 b4 b3 b2 b1 b0
  refine ⟨?_, fun s hsh hbit hl => ⟨_, exec_bitWaitLow_low hl, fun i => ?_⟩⟩
  · have bit_lt (b : Level) : b.bit.toNat < 2 := b.bit.isLt
    have := bit_lt b7; have := bit_lt b6; have := bit_lt b5; have := bit_lt b4
    have := bit_lt b3; have := bit_lt b2; have := bit_lt b1; have := bit_lt b0
    simp only [List.foldl_cons, List.foldl_nil, shiftIn_toNat]
    omega
  · rw [readByte_bitComplete, hsh]
    simp [hbit]

/-! ### The position in the frame (R111) -/

theorem bitNumber_le (s : State) : s.bitNumber ≤ 39 := by
  have := s.byteIdx.isLt
  have := s.bitCnt.isLt
  unfold State.bitNumber
  omega

theorem bitNumber_div (s : State) : s.bitNumber / 8 = s.byteIdx.val := by
  have := s.bitCnt.isLt
  unfold State.bitNumber
  omega

theorem bitNumber_mod (s : State) : s.bitNumber % 8 = s.bitCnt.val := by
  have := s.bitCnt.isLt
  unfold State.bitNumber
  omega

theorem bitCnt_eq_seven_iff (s : State) : s.bitCnt = 7 ↔ s.bitNumber % 8 = 7 := by
  rw [bitNumber_mod, Fin.ext_iff]
  rfl

/-- The last position is that of the last bit of the last byte. -/
theorem bitNumber_eq_last_iff (s : State) : s.bitNumber = 39 ↔ s.bitCnt = 7 ∧ s.byteIdx = 4 := by
  rw [Fin.ext_iff, Fin.ext_iff, ← bitNumber_mod, ← bitNumber_div]
  change _ ↔ s.bitNumber % 8 = 7 ∧ s.bitNumber / 8 = 4
  omega

/-- A bit that is not the frame's last advances the position by one and is followed by another. -/
theorem bitComplete_advances {s : State} (h : s.bitNumber < 39) :
    s.bitComplete.phase = .bitWaitHigh ∧ s.bitComplete.bitNumber = s.bitNumber + 1 := by
  obtain ⟨hbit, hx⟩ | ⟨hbit, hbyte, hx⟩ | ⟨hbit, hbyte, -⟩ := bitComplete_cases s
  · have hlt : s.bitCnt.val < 7 := Fin.val_lt_last hbit
    have hval : (s.bitCnt + 1).val = s.bitCnt.val + 1 := Fin.val_add_one_of_lt' (by omega)
    refine ⟨by rw [hx], ?_⟩
    simp only [hx, State.bitNumber, hval]
    omega
  · have hlt : s.byteIdx.val < 4 := Fin.val_lt_last hbyte
    have hval : (s.byteIdx + 1).val = s.byteIdx.val + 1 := Fin.val_add_one_of_lt' (by omega)
    refine ⟨by rw [hx], ?_⟩
    simp only [hx, State.bitNumber, hval, hbit]
    rfl
  · exact absurd ((bitNumber_eq_last_iff s).mpr ⟨hbit, hbyte⟩) h.ne

/-- The frame's last bit ends the decode and leaves the position at the last byte. -/
theorem bitComplete_last {s : State} (h : s.bitNumber = 39) :
    s.bitComplete.phase = .validate ∧ s.bitComplete.byteIdx = 4 ∧ s.bitComplete.bitCnt = 0 := by
  obtain ⟨hbit, hbyte⟩ := (bitNumber_eq_last_iff s).mp h
  rw [bitComplete_eq_ite, if_pos hbit, if_pos hbyte]
  exact ⟨rfl, hbyte, rfl⟩

/-- Settles O26: the position, and the store by its byte and bit. -/
theorem bitsFillTheFrameInOrder : Obligations.BitsFillTheFrameInOrder := by
  unfold Obligations.BitsFillTheFrameInOrder
  intro s hl
  refine ⟨_, exec_bitWaitLow_low hl, bitNumber_le s, bitComplete_advances, bitComplete_last, fun i => ?_⟩
  rw [readByte_bitComplete, bitNumber_div]
  exact if_congr (and_congr (bitCnt_eq_seven_iff s) Fin.ext_iff) rfl rfl

end Sys2Proof.Machine
end

section
/-! The frame decode along a line (spec/42_frame_decode.md R105 to R109): how long each of its three phases lasts and
what it waits for, and the law of the discriminator, from the tick that enters `BIT_WAIT_HIGH`. -/

namespace Sys2Proof.Machine

/-! ### The three phases -/

section DecodePhases
variable {x : State} (hc : x.cnt = 0)
include hc

theorem bitWaitHigh_waitsOn (hp : x.phase = .bitWaitHigh) {n : Nat} (hn : n < x.params.tTimeout) :
    x.WaitsOn (List.replicate n .low) := fun k hk e hr hl => by
  rw [List.length_replicate] at hk
  have hlow : e.pins.lineIn = .low := List.eq_of_mem_replicate hl
  rw [step_bitWaitHigh (x.counted k e) hr hp, if_neg (by simp [hlow]), if_neg (by simp; omega)]

theorem bitDelay_waitsOn (hp : x.phase = .bitDelay) {ls : List Level} (hlen : ls.length < x.params.tBit) :
    x.WaitsOn ls := fun k hk e hr _ =>
  step_beforeSample hr (.inr (.inr ⟨hp, by simp; omega⟩))

theorem bitWaitLow_waitsOn (hp : x.phase = .bitWaitLow) {n : Nat} (hn : n < x.params.tTimeout) :
    x.WaitsOn (List.replicate n .high) := fun k hk e hr hl => by
  rw [List.length_replicate] at hk
  exact step_bitWaitLow_high hp (by omega) hr (List.eq_of_mem_replicate hl)

/-- R105: `T_TIMEOUT` ticks of Low: the read completes with `TIMEOUT`. -/
theorem bitWaitHigh_leadsTo_timeout (hp : x.phase = .bitWaitHigh) {n : Nat} (hn : n + 1 = x.params.tTimeout)
    (rest : List Level) :
    LeadsTo (n + 1) x (List.replicate n .low ++ .low :: rest) (x.complete .timeout) rest := by
  refine leadsTo_of_stretch (State.complete · .timeout) (by simp) rest (fun _ _ => rfl)
    (bitWaitHigh_waitsOn hc hp (by omega)) fun e hr hl => ?_
  rw [step_bitWaitHigh (x.counted _ e) hr hp, if_neg (by simp [hl]), if_pos (by simp; omega)]

end DecodePhases

/-- A line of one level, with its last tick apart. -/
theorem replicate_eq_append_last {n m : Nat} (h : m + 1 = n) (l : Level) :
    List.replicate n l = List.replicate m l ++ [l] := by
  rw [← h, List.replicate_succ']

/-- What a run along the whole of a line reaches. -/
theorem LeadsTo.runsTo {n : Nat} {s y : State} {ls : List Level} (h : LeadsTo n s ls y []) (hh : s.hears ls) :
    ∃ t, RunsTo n s t ∧ t.block = y.block := by
  obtain ⟨t, hrun, hb, -⟩ := h s rfl hh
  exact ⟨t, hrun, hb⟩

/-- `BIT_WAIT_HIGH` on a line that stays Low: the deadline ends the read. -/
theorem bitWaitHigh_runsTo_timeout {s : State} (hp : s.phase = .bitWaitHigh) (hc : s.cnt = 0)
    (hpos : 1 ≤ s.params.tTimeout) (hh : s.hears (List.replicate s.params.tTimeout .low)) :
    ∃ t, RunsTo s.params.tTimeout s t ∧ t.block = (s.complete .timeout).block := by
  obtain ⟨n, hn⟩ := Nat.exists_eq_add_of_le' hpos
  rw [replicate_eq_append_last hn.symm] at hh
  rw [hn]
  exact (bitWaitHigh_leadsTo_timeout hc hp hn.symm []).runsTo hh

/-- Settles O19: the phase waits on Low until the first High, or until the deadline. -/
theorem waitForHighIsBounded : Obligations.WaitForHighIsBounded := by
  unfold Obligations.WaitForHighIsBounded
  refine fun s hp hc hpos => ⟨fun n hn hh => ⟨fun k hk => ?_, ?_⟩, fun hh => ?_⟩
  · exact (bitWaitHigh_waitsOn hc hp hn).counts hc hh (by simpa using hk)
  · exact (bitWaitHigh_leadsTo [] hp hc hn).runsTo hh
  · exact bitWaitHigh_runsTo_timeout hp hc hpos hh

/-- Settles O20: the phase waits on the levels before the sample, whatever they are, and shifts the sample in. -/
theorem delayThenSampleShiftsTheBit : Obligations.DelayThenSampleShiftsTheBit := by
  unfold Obligations.DelayThenSampleShiftsTheBit
  refine ⟨rfl, fun s waited sample hp hc hlen hh => ⟨fun k hk => ?_, ?_⟩⟩
  · obtain ⟨t, hrun, hb⟩ := (bitDelay_waitsOn hc hp (by omega)).counts hc hh (k := k) (by omega)
    have htp : t.phase = .bitDelay := (phase_of_block_eq hb).trans hp
    exact ⟨t, hrun, hb, (lineOe_eq_input_iff t).mpr (by simp [htp])⟩
  · rw [← shiftIn_eq_append]
    exact (bitDelay_leadsTo [] hp hc hlen sample).runsTo hh

/-- Settles O21: the phase waits on High until the first Low, which ends the bit, or until the deadline. -/
theorem waitForLowIsBounded : Obligations.WaitForLowIsBounded := by
  unfold Obligations.WaitForLowIsBounded
  refine fun s hp hc hpos => ⟨fun n hn hh => ⟨fun k hk => ?_, ?_⟩, fun hh => ?_⟩
  · obtain ⟨t, hrun, hb⟩ := (bitWaitLow_waitsOn hc hp hn).counts hc hh (k := k) (by simpa using hk)
    have htp : t.phase = .bitWaitLow := (phase_of_block_eq hb).trans hp
    exact ⟨t, hrun, hb, (lineOe_eq_input_iff t).mpr (by simp [htp])⟩
  · rw [← bitComplete_eq_ite]
    exact (bitWaitLow_leadsTo [] hp hc hn).runsTo hh
  · obtain ⟨n, hn⟩ := Nat.exists_eq_add_of_le' hpos
    rw [replicate_eq_append_last hn.symm] at hh
    rw [hn]
    exact (bitWaitLow_leadsTo_timeout [] hp hc hn.symm).runsTo hh

/-! ### The law of the discriminator (R108) -/

/-- What is heard while the line stays at a level is heard for a shorter time. -/
theorem hears_replicate_of_le {s : State} {ls : List Level} {l : Level} {v w : Nat} (hv : v ≤ w)
    (hh : s.hears (ls ++ List.replicate w l)) : s.hears (ls ++ List.replicate v l) := by
  obtain ⟨d, rfl⟩ := Nat.exists_eq_add_of_le hv
  rw [List.replicate_add, ← List.append_assoc] at hh
  exact hears_prefix hh

/-- The line of a bit up to the tick before its sample: `g` ticks of Low, `w` of High, and `between`. -/
def bitLine (g w : Nat) (between : List Level) : List Level :=
  List.replicate g Level.low ++ List.replicate w Level.high ++ between

/-- The line of a bit is the wait for High, its first tick of High, and the ticks that `BIT_DELAY` waits. -/
theorem bitLine_eq {g w b : Nat} (hw : 1 ≤ w) {between : List Level} (hlen : w + between.length = b) :
    ∃ waited : List Level, waited.length + 1 = b ∧
      ∀ rest, bitLine g w between ++ rest = List.replicate g .low ++ .high :: (waited ++ rest) := by
  obtain ⟨w, rfl⟩ := Nat.exists_eq_add_of_le' hw
  refine ⟨List.replicate w .high ++ between, ?_, fun rest => ?_⟩
  · rw [List.length_append, List.length_replicate]
    omega
  · simp only [bitLine, List.replicate_succ, List.append_assoc, List.cons_append]

/-- A High that lasts beyond its sample, by `n` ticks. -/
theorem longHigh_eq (g b n : Nat) (rest : List Level) :
    List.replicate g Level.low ++ List.replicate (b + (n + 1)) Level.high ++ rest =
      bitLine g b [] ++ .high :: (List.replicate n .high ++ rest) := by
  simp only [bitLine, List.replicate_add, List.replicate_one, List.append_assoc, List.append_nil, List.cons_append,
    List.nil_append, Nat.add_comm n 1]

section Discriminator
variable {s : State} {g w m : Nat} {between : List Level} {sample : Level} (hp : s.phase = .bitWaitHigh) (hc : s.cnt = 0)
  (hg : g < s.params.tTimeout) (hw : 1 ≤ w) (hlen : w + between.length = s.params.tBit)
include hp hc hg hw hlen

/-- The level of the tick `T_BIT` ticks after the first High is the bit, whatever the line does before it. -/
theorem bit_sampled {rest : List Level} (hh : s.hears (bitLine g w between ++ sample :: rest))
    (hm : g + s.params.tBit + 1 = m) :
    ∃ t, RunsTo m s t ∧ t.block = ((s.shiftBit sample).goto .bitWaitLow).block := by
  obtain rfl : g + 1 + s.params.tBit = m := by omega
  obtain ⟨waited, hwaited, hline⟩ := bitLine_eq hw hlen
  rw [hline] at hh
  obtain ⟨t, hrun, hb, -⟩ := symbol_leadsTo_sample hp hc hg hwaited sample rest s rfl hh
  exact ⟨t, hrun, hb⟩

/-- The bit shifted in is 1 exactly when the sampled level is High. -/
theorem bit_iff_sample (hh : s.hears (bitLine g w between ++ [sample])) (hm : g + s.params.tBit + 1 = m) :
    ∃ t, RunsTo m s t ∧ t.phase = .bitWaitLow ∧ (t.sh.getLsbD 0 = true ↔ sample = .high) := by
  obtain ⟨t, hrun, hb⟩ := bit_sampled hp hc hg hw hlen hh hm
  obtain ⟨hphase, -, -, -, hsh, -⟩ := (block_eq_iff _ _).mp hb
  exact ⟨t, hrun, hphase, hsh ▸ shiftIn_getLsbD_zero s.sh sample⟩

/-- The bit is complete on the first Low after the sample, within the deadline. -/
theorem bit_completed {n : Nat} (hn : n < s.params.tTimeout)
    (hh : s.hears (bitLine g w between ++ sample :: (List.replicate n .high ++ [.low])))
    (hm : g + s.params.tBit + n + 2 = m) :
    ∃ t, RunsTo m s t ∧ t.block = (s.shiftBit sample).bitComplete.block := by
  obtain rfl : g + 1 + s.params.tBit + (n + 1) = m := by omega
  obtain ⟨waited, hwaited, hline⟩ := bitLine_eq hw hlen
  rw [hline] at hh
  obtain ⟨t, hrun, hb⟩ := (symbol_leadsTo_bitComplete hp hc hg hwaited sample hn []).runsTo hh
  exact ⟨t, hrun, hb.trans (bitComplete_block (s.shiftBit sample) s .bitWaitLow 0)⟩

/-- A line that stays High from the sample to the deadline ends the read, the bit being shifted in. -/
theorem bit_timedOut (hpos : 1 ≤ s.params.tTimeout)
    (hh : s.hears (bitLine g w between ++ sample :: List.replicate s.params.tTimeout .high))
    (hm : g + s.params.tBit + s.params.tTimeout + 1 = m) :
    ∃ t, RunsTo m s t ∧ t.block = ((s.shiftBit sample).complete .timeout).block := by
  obtain ⟨n, hn⟩ := Nat.exists_eq_add_of_le' hpos
  obtain rfl : g + 1 + s.params.tBit + (n + 1) = m := by omega
  obtain ⟨waited, hwaited, hline⟩ := bitLine_eq hw hlen
  rw [hline, replicate_eq_append_last hn.symm] at hh
  exact (symbol_leadsTo_timeout hp hc hg hwaited sample hn.symm []).runsTo hh

end Discriminator

/-- Settles O22, row by row of R108: a long High is one of `T_BIT` ticks, a sample of High and the ticks after it. -/
theorem discriminatorLaw : Obligations.DiscriminatorLaw := by
  unfold Obligations.DiscriminatorLaw
  intro s g w hp hc hpos hw
  obtain ⟨hbit, htimeout⟩ : 1 ≤ s.params.tBit ∧ 1 ≤ s.params.tTimeout := by
    simp only [Params.positive, decide_eq_true_eq] at hpos
    omega
  refine ⟨fun hg hh => ?_, fun between sample hg hlen hh => ?_, fun between hg hlen hh => ?_, fun hg hlong hw' hh => ?_,
    fun hg hlong hh => ?_⟩
  · exact bitWaitHigh_runsTo_timeout hp hc htimeout (hears_replicate_of_le (ls := []) hg hh)
  · exact bit_sampled hp hc hg hw hlen hh rfl
  · exact bit_completed hp hc hg hw hlen (n := 0) htimeout hh rfl
  · obtain ⟨n, rfl⟩ : ∃ n, w = s.params.tBit + (n + 1) := ⟨w - s.params.tBit - 1, by omega⟩
    rw [longHigh_eq] at hh
    exact ⟨bit_sampled hp hc hg hbit rfl hh rfl, bit_completed hp hc hg hbit rfl (by omega) hh (by omega)⟩
  · have hh' := hears_replicate_of_le (v := s.params.tBit + (s.params.tTimeout + 1)) (by omega) hh
    have hline := longHigh_eq g s.params.tBit s.params.tTimeout []
    rw [List.append_nil, List.append_nil] at hline
    rw [hline] at hh'
    exact ⟨bit_sampled hp hc hg hbit rfl hh' rfl, bit_timedOut hp hc hg hbit rfl htimeout hh' rfl⟩

/-! ### The fortieth tick (R109) -/

/-- Settles O23: the sample is the fortieth tick after the first High, and only the width 41 is still High there. -/
theorem fortyTicksDecodeToZero : Obligations.FortyTicksDecodeToZero := by
  unfold Obligations.FortyTicksDecodeToZero
  refine fun s g hp hc hbit hg => ⟨fun between fortieth hlen hh => ?_, fun w hw hw' hh => ?_⟩
  · exact bit_iff_sample hp hc hg (w := 1) (between := between) le_rfl (by omega) hh (by omega)
  · obtain rfl | hlt := hw'.eq_or_lt
    · rw [longHigh_eq g 40 0] at hh
      simpa using bit_iff_sample hp hc hg (w := 40) (between := []) (by omega) hbit.symm hh (by omega)
    · have hlow : List.replicate (41 - w) Level.low = List.replicate (40 - w) .low ++ [.low] :=
        replicate_eq_append_last (by omega) .low
      have hlen : w + (List.replicate (40 - w) Level.low).length = s.params.tBit := by
        rw [List.length_replicate]
        omega
      rw [hlow, ← List.append_assoc] at hh
      simpa [hlt.ne] using bit_iff_sample hp hc hg hw hlen hh (by omega)

end Sys2Proof.Machine
end

section
/-! The tick of `VALIDATE` and its arithmetic (spec/43_validate_convert.md R120 to R124): the checksum as a sum of bytes,
the raw readings as numbers, what the operation answers, and the decimal outputs. -/

namespace Sys2Proof.Machine

/-! ### The checksum (R121) -/

/-- Ten bits reduce the sum modulo 1024, a multiple of 256, so the truncation to eight needs no bound on it. -/
theorem checksumOf_toNat (f : RawFrame) : (checksumOf f).toNat =
    (f.humidityHigh.toNat + f.humidityLow.toNat + f.tempHigh.toNat + f.tempLow.toNat) % 256 := by
  simp only [checksumOf, BitVec.extractLsb'_toNat, BitVec.toNat_add, BitVec.toNat_setWidth, Nat.shiftRight_zero]
  omega

/-- Adding in eight bits gives the same checksum. -/
theorem checksumOf_eq_add (f : RawFrame) :
    checksumOf f = f.humidityHigh + f.humidityLow + f.tempHigh + f.tempLow := by
  refine BitVec.eq_of_toNat_eq ?_
  rw [checksumOf_toNat]
  simp only [BitVec.toNat_add]
  omega

theorem frameValid_iff_add (f : RawFrame) :
    frameValid f = true ↔ f.humidityHigh + f.humidityLow + f.tempHigh + f.tempLow = f.checksum := by
  rw [frameValid_iff, checksumOf_eq_add]

theorem frameValid_iff_toNat (f : RawFrame) : frameValid f = true ↔
    (f.humidityHigh.toNat + f.humidityLow.toNat + f.tempHigh.toNat + f.tempLow.toNat) % 256 = f.checksum.toNat := by
  rw [frameValid_iff, ← checksumOf_toNat, BitVec.toNat_inj]

theorem dataSum_le (f : RawFrame) :
    f.humidityHigh.toNat + f.humidityLow.toNat + f.tempHigh.toNat + f.tempLow.toNat ≤ 1020 := by
  have := f.humidityHigh.isLt; have := f.humidityLow.isLt; have := f.tempHigh.isLt; have := f.tempLow.isLt
  omega

/-- Of one byte, the other four given, a valid frame leaves no choice: addition modulo 256 cancels. -/
theorem eq_readByte_of_frameValid {f : RawFrame} (hf : frameValid f = true) (i : ByteIdx) {b : Byte}
    (hb : frameValid (writeByte f i b) = true) : b = readByte f i := by
  rw [frameValid_iff_add] at hf hb
  match i with
  | 0 => exact add_right_cancel (add_right_cancel (add_right_cancel (hb.trans hf.symm)))
  | 1 => exact add_left_cancel (add_right_cancel (add_right_cancel (hb.trans hf.symm)))
  | 2 => exact add_left_cancel (add_right_cancel (hb.trans hf.symm))
  | 3 => exact add_left_cancel (hb.trans hf.symm)
  | 4 => exact hb.symm.trans hf

/-- Settles O49; an error in one byte is detected because the other four determine that byte. -/
theorem checksumDetectsEverySingleByteError : Obligations.ChecksumDetectsEverySingleByteError := by
  unfold Obligations.ChecksumDetectsEverySingleByteError
  refine fun f => ⟨checksumOf_toNat f, dataSum_le f, checksumOf_eq_add f, frameValid_iff f, fun hf i b hne => ?_⟩
  rw [← Bool.not_eq_true]
  exact fun hb => hne (eq_readByte_of_frameValid hf i hb)

/-! ### The raw readings and the tick of `VALIDATE` (R120, R122) -/

theorem rawReading_eq_ofNat (high low : Byte) :
    rawReading high low = BitVec.ofNat 16 (256 * high.toNat + low.toNat) := by
  rw [← rawReading_toNat, BitVec.ofNat_toNat, BitVec.setWidth_eq]

/-- The high byte stands above the eight bits of the low one. -/
theorem rawReading_getLsbD_high (high low : Byte) (j : Nat) :
    (rawReading high low).getLsbD (8 + j) = high.getLsbD j :=
  BitVec.getLsbD_append.trans (by simp)

/-- R120: the comparison of the sum with the fifth byte decides between the two completions. -/
theorem exec_validate (s : State) :
    exec .validate s = .next
      (if (s.frame.humidityHigh.toNat + s.frame.humidityLow.toNat + s.frame.tempHigh.toNat + s.frame.tempLow.toNat) % 256
          = s.frame.checksum.toNat
       then s.storeReading.complete .ok else s.complete .checksumMismatch) :=
  congrArg _ (if_congr (frameValid_iff_toNat s.frame) rfl rfl)

/-- The tick of `VALIDATE` with a valid frame. -/
theorem exec_validate_of_frameValid {s : State} (h : frameValid s.frame = true) :
    exec .validate s = .next (s.storeReading.complete .ok) := by
  rw [exec_validate, if_pos ((frameValid_iff_toNat s.frame).mp h)]

/-- Settles O13, by the answer of the operation with the two stored readings as numbers. -/
theorem validateStoresOrDiscards : Obligations.ValidateStoresOrDiscards := by
  unfold Obligations.ValidateStoresOrDiscards
  refine fun s => ⟨fun hp => (lineOe_eq_input_iff s).mpr (by simp [hp]), ?_⟩
  rw [exec_validate, ← rawReading_eq_ofNat, ← rawReading_eq_ofNat]
  rfl

/-- Settles O50: a valid frame's readings are the ones stored, and both are words of two bytes. -/
theorem rawReadingsAreBigEndian : Obligations.RawReadingsAreBigEndian := by
  unfold Obligations.RawReadingsAreBigEndian
  refine ⟨fun f => ⟨rawReading_toNat _ _, rawReading_toNat _ _, rawReading_getLsbD_high _ _ 7⟩, fun s h => ?_⟩
  refine ⟨s.storeReading.complete .ok, exec_validate_of_frameValid h, ?_, ?_⟩
  · rw [complete_humRaw, storeReading_humRaw]
    exact rawReading_toNat _ _
  · rw [complete_tempRaw, storeReading_tempRaw]
    exact rawReading_toNat _ _

/-! ### The decimal outputs (R124) -/

theorem raw_div_ten_le (raw : Raw) : raw.toNat / 10 ≤ 6553 := by
  have := raw.isLt
  omega

/-- Thirteen bits hold every quotient. -/
theorem intPart_toNat (raw : Raw) : (intPart raw).toNat = raw.toNat / 10 :=
  Nat.mod_eq_of_lt ((raw_div_ten_le raw).trans_lt (by decide))

/-- Four bits hold every remainder. -/
theorem fracPart_toNat (raw : Raw) : (fracPart raw).toNat = raw.toNat % 10 :=
  Nat.mod_eq_of_lt ((Nat.mod_lt _ (by decide)).trans (by decide))

theorem intPart_le (raw : Raw) : (intPart raw).toNat ≤ 6553 :=
  (intPart_toNat raw).trans_le (raw_div_ten_le raw)

theorem fracPart_le (raw : Raw) : (fracPart raw).toNat ≤ 9 :=
  (fracPart_toNat raw).trans_le (Nat.le_of_lt_succ (Nat.mod_lt _ (by decide)))

/-- The two decimal parts lose nothing of the reading. -/
theorem toNat_eq_ten_mul_intPart_add_fracPart (raw : Raw) :
    raw.toNat = 10 * (intPart raw).toNat + (fracPart raw).toNat := by
  rw [intPart_toNat, fracPart_toNat, Nat.div_add_mod]

/-- Settles O51: both quantities go through the same two functions of a raw reading. -/
theorem decimalOutputsAreExact : Obligations.DecimalOutputsAreExact := by
  unfold Obligations.DecimalOutputsAreExact
  exact fun s => ⟨intPart_toNat _, fracPart_toNat _, intPart_toNat _, fracPart_toNat _,
    toNat_eq_ten_mul_intPart_add_fracPart _, toNat_eq_ten_mul_intPart_add_fracPart _,
    fracPart_le _, fracPart_le _, intPart_le _, intPart_le _⟩

end Sys2Proof.Machine
end

section
/-! The block never hangs (spec/60_exceptions.md R149): a count of the ticks a read may still last, which every busy
tick lowers and which never exceeds the bound of spec/70_reset_and_hazards.md R171. -/

namespace Sys2Proof.Machine

/-! ### The ticks a read may still last -/

/-- The most ticks that the phase of `s` lasts. -/
def State.phaseTicks (s : State) : Nat :=
  match s.phase with
  | .idle => 0
  | .hsLow => holdTime s.params s.variantQ
  | .hsHigh => s.params.tReady
  | .hsWait1 => s.params.tAck1 + 1
  | .hsWait2 => s.params.tAck2
  | .hsRelease => s.params.tTimeout
  | .bitWaitHigh => s.params.tTimeout
  | .bitDelay => s.params.tBit
  | .bitWaitLow => s.params.tTimeout
  | .validate => 1

/-- The most ticks that `n` bits and the `VALIDATE` after them last. -/
def decodeTicks (p : Params) (n : Nat) : Nat := n * (p.tTimeout + p.tBit + p.tTimeout) + 1

/-- The most ticks that the phases after that of `s` last, to the end of the read. -/
def State.ticksAfterPhase (s : State) : Nat :=
  match s.phase with
  | .idle => 0
  | .hsLow => s.params.tReady + (s.params.tAck1 + 1) + s.params.tAck2 + s.params.tTimeout + decodeTicks s.params 40
  | .hsHigh => s.params.tAck1 + 1 + s.params.tAck2 + s.params.tTimeout + decodeTicks s.params 40
  | .hsWait1 => s.params.tAck2 + s.params.tTimeout + decodeTicks s.params 40
  | .hsWait2 => s.params.tTimeout + decodeTicks s.params 40
  | .hsRelease => decodeTicks s.params 40
  | .bitWaitHigh => s.params.tBit + s.params.tTimeout + decodeTicks s.params (39 - s.bitNumber)
  | .bitDelay => s.params.tTimeout + decodeTicks s.params (39 - s.bitNumber)
  | .bitWaitLow => decodeTicks s.params (39 - s.bitNumber)
  | .validate => 0

/-- The most ticks until the read has ended. -/
def State.ticksLeft (s : State) : Nat := s.phaseTicks - s.cnt + s.ticksAfterPhase

@[simp] theorem ticksLeft_nextTick (s : State) : s.nextTick.ticksLeft = s.ticksLeft := by
  simp [State.ticksLeft, State.phaseTicks, State.ticksAfterPhase, State.bitNumber]

@[simp] theorem cntInPhase_nextTick (s : State) : s.nextTick.cntInPhase ↔ s.cntInPhase := by
  simp [State.cntInPhase]

/-- One bit more to come costs the longest wait for High, the delay and the longest wait for Low. -/
theorem bit_add_decodeTicks_le (p : Params) {m n : Nat} (h : m < n) :
    p.tTimeout + p.tBit + p.tTimeout + decodeTicks p m ≤ decodeTicks p n := by
  have key := Nat.mul_le_mul_right (p.tTimeout + p.tBit + p.tTimeout) (Nat.succ_le_of_lt h)
  rw [Nat.succ_mul] at key
  unfold decodeTicks
  omega

/-- The bound of `cnt` in a busy phase leaves at least the tick of this step. -/
theorem cnt_lt_phaseTicks {s : State} (hbusy : s.phase ≠ .idle) (h : s.cntInPhase) : s.cnt < s.phaseTicks := by
  unfold State.cntInPhase at h
  unfold State.phaseTicks
  split at h <;> simp_all

/-- No read lasts longer than the bound of R171, whatever the phase it stands in. -/
theorem ticksLeft_le_busyBound (s : State) : s.ticksLeft ≤ busyBound s.params (holdTime s.params s.variantQ) := by
  have hdecode : decodeTicks s.params 40 = 40 * (s.params.tTimeout + s.params.tBit + s.params.tTimeout) + 1 := rfl
  have hbit := bit_add_decodeTicks_le s.params (show 39 - s.bitNumber < 40 by omega)
  unfold State.ticksLeft State.phaseTicks State.ticksAfterPhase busyBound
  split <;> omega

/-! ### Every busy tick lowers the count -/

/-- A phase entered after a plain move is the next on the way that `ticksAfterPhase` counts. -/
theorem ticksLeft_plainMove {s : State} {q : Phase} (hq : (s.phase, q) ∈ plainMoves) :
    (s.goto q).ticksLeft ≤ s.ticksAfterPhase := by
  simp only [plainMoves, List.mem_cons, Prod.mk.injEq, List.not_mem_nil, or_false] at hq
  obtain ⟨hp, rfl⟩ | ⟨hp, rfl⟩ | ⟨hp, rfl⟩ | ⟨hp, rfl⟩ := hq <;>
    simp [State.ticksLeft, State.phaseTicks, State.ticksAfterPhase, State.bitNumber, hp, Nat.add_assoc]

/-- A bit completed brings the decode to the wait for the next bit, one position further or more. -/
theorem ticksLeft_nextBit {s x : State} (hp : s.phase = .bitWaitLow) (hx : x.phase = .bitWaitHigh) (hc : x.cnt = 0)
    (hparams : x.params = s.params) (hbit : s.bitNumber < x.bitNumber) : x.ticksLeft ≤ s.ticksAfterPhase := by
  have hle := bitNumber_le x
  have key := bit_add_decodeTicks_le s.params (show 39 - x.bitNumber < 39 - s.bitNumber by omega)
  simp only [State.ticksLeft, State.phaseTicks, State.ticksAfterPhase, hp, hx, hc, hparams]
  omega

/-- A tick of a busy phase goes on with it, or what the read may still last is what lies after that phase. -/
theorem Effect.stays_or_ends_phase {s x : State} (h : Effect s x) (hbusy : s.phase ≠ .idle) :
    x = s.stay ∨ x.ticksLeft ≤ s.ticksAfterPhase := by
  cases h with
  | stay _ _ _ => exact .inl rfl
  | nop hp | accept hp => exact absurd hp hbusy
  | move q hq => exact .inr (ticksLeft_plainMove hq)
  | respond r hp =>
    refine .inr ?_
    obtain hp | hp := hp <;> simp [State.ticksLeft, State.phaseTicks, State.ticksAfterPhase, hp, Nat.add_assoc]
  | startDecode hp _ =>
    have key := bit_add_decodeTicks_le s.params (show 39 - s.bitNumber < 40 by omega)
    have hposition : (s.goto .bitWaitHigh).bitNumber = s.bitNumber := rfl
    refine .inr ?_
    simp only [State.ticksLeft, State.phaseTicks, State.ticksAfterPhase, goto_phase, goto_cnt, goto_params, hposition, hp]
    omega
  | shift hp => exact .inr (by simp [State.ticksLeft, State.phaseTicks, State.ticksAfterPhase, State.bitNumber, hp])
  | countBit hp hbit =>
    have hlt : s.bitCnt.val < 7 := Fin.val_lt_last hbit
    have hval : (s.bitCnt + 1).val = s.bitCnt.val + 1 := Fin.val_add_one_of_lt' (by omega)
    exact .inr (ticksLeft_nextBit hp rfl rfl rfl (by simp only [State.bitNumber, hval]; omega))
  | nextByte hp hbyte =>
    have hlt : s.byteIdx.val < 4 := Fin.val_lt_last hbyte
    have hval : (s.byteIdx + 1).val = s.byteIdx.val + 1 := Fin.val_add_one_of_lt' (by omega)
    have hcount := s.bitCnt.isLt
    exact .inr (ticksLeft_nextBit hp rfl rfl rfl (by simp only [State.bitNumber, hval]; omega))
  | lastByte hp _ => exact .inr (by simp [State.ticksLeft, State.phaseTicks, State.ticksAfterPhase, decodeTicks, hp])
  | fail _ _ _ | deliver _ _ => exact .inr (by simp [State.ticksLeft, State.phaseTicks, State.ticksAfterPhase])

theorem Effect.ticksLeft_lt {s x : State} (h : Effect s x) (hbusy : s.phase ≠ .idle) (hc : s.cntInPhase) :
    x.ticksLeft < s.ticksLeft := by
  have hcnt := cnt_lt_phaseTicks hbusy hc
  obtain rfl | hle := h.stays_or_ends_phase hbusy
  · have hphase : s.stay.phaseTicks = s.phaseTicks := rfl
    have hafter : s.stay.ticksAfterPhase = s.ticksAfterPhase := rfl
    simp only [State.ticksLeft, hphase, hafter, stay_cnt]
    omega
  · unfold State.ticksLeft at hle ⊢
    omega

/-! ### The way back to `IDLE` -/

/-- A block that hears a line for as long as its read may still last is in `IDLE` by then, and was busy until it was. -/
theorem reaches_idle {s : State} {ls : List Level} (hp : s.params.positive = true) (hc : s.cntInPhase)
    (hh : s.hears ls) (hlen : s.ticksLeft ≤ ls.length) :
    ∃ n ≤ s.ticksLeft, (∀ k < n, ∃ t, RunsTo k s t ∧ busy t = true) ∧ ∃ t, RunsTo n s t ∧ t.phase = .idle := by
  induction ls generalizing s with
  | nil =>
    by_cases hidle : s.phase = .idle
    · exact ⟨0, Nat.zero_le _, by simp, s, runsTo_zero s, hidle⟩
    · have hcnt := cnt_lt_phaseTicks hidle hc
      simp only [State.ticksLeft, List.length_nil] at hlen
      omega
  | cons l ls ih =>
    by_cases hidle : s.phase = .idle
    · exact ⟨0, Nat.zero_le _, by simp, s, runsTo_zero s, hidle⟩
    · obtain ⟨hr, -, -⟩ := hears_cons hh
      obtain ⟨u, hstep⟩ := everyStateHasANextState s
      obtain ⟨x, hx, rfl⟩ := step_effect hr hstep
      have hlt : x.nextTick.ticksLeft < s.ticksLeft := by
        rw [ticksLeft_nextTick]
        exact hx.ticksLeft_lt hidle hc
      rw [List.length_cons] at hlen
      obtain ⟨n, hn, hbusy, t, hrun, ht⟩ := ih (step_params hstep ▸ hp)
        ((cntInPhase_nextTick x).mpr (hx.cntInPhase hp hc)) (hears_of_step hh hstep) (by omega)
      refine ⟨n + 1, by omega, fun k hk => ?_, t, runsTo_succ hstep hrun, ht⟩
      cases k with
      | zero => exact ⟨s, runsTo_zero s, by simpa [busy] using hidle⟩
      | succ k =>
        obtain ⟨v, hv, hvbusy⟩ := hbusy k (by omega)
        exact ⟨v, runsTo_succ hstep hv, hvbusy⟩

/-- Settles O32: the count of ticks left is lowered by every busy tick and starts within the bound. -/
theorem theBlockNeverHangs : Obligations.TheBlockNeverHangs := by
  unfold Obligations.TheBlockNeverHangs
  intro s hinv hquiet
  obtain ⟨ls, hlen, hh⟩ := noReset_hears hquiet
  have hbound := ticksLeft_le_busyBound s
  obtain ⟨n, hn, -, hend⟩ := reaches_idle hinv.params_positive hinv.cnt_in_phase hh (hlen ▸ hbound)
  exact ⟨n, hn.trans hbound, hend⟩

end Sys2Proof.Machine
end

section
/-! Reset (spec/70_reset_and_hazards.md R160): the reset block is what every tick of reset leads to, and what it shows. -/

namespace Sys2Proof.Machine

/-- What the reset elements show at the ports, in whatever environment. -/
theorem outputs_of_isReset {t : State} (h : t.isReset) :
    busy t = false ∧ lineOe t = .input ∧ t.done = false ∧ t.status = .none ∧ t.readingValid = false := by
  obtain ⟨hphase, -, -, -, -, -, -, -, hdone, hstatus, hvalid, -⟩ :=
    (block_eq_iff t { State.reset with params := t.params }).mp h
  have hidle : t.phase = .idle := hphase
  exact ⟨(busy_eq_false_iff t).mpr hidle, (lineOe_eq_input_iff t).mpr (by simp [hidle]), hdone, hstatus, hvalid⟩

/-- The first of the ticks that show `rst = 1`, and those that still do after it. -/
theorem rst_cons {s : State} {n : Nat} (h : List.replicate (n + 1) true <+: s.upcoming.map Pins.rst) :
    s.pins.rst = true ∧
      ∀ x : State, x.schedule = s.schedule → List.replicate n true <+: x.nextTick.upcoming.map Pins.rst := by
  rw [State.upcoming, List.map_cons, List.replicate_succ, List.cons_prefix_cons] at h
  obtain ⟨hrst, hrest⟩ := h
  refine ⟨hrst.symm, fun x hx => ?_⟩
  cases hsch : s.schedule with
  | nil =>
    obtain rfl : n = 0 := by simpa [hsch] using hrest
    exact List.nil_prefix
  | cons p ps =>
    rw [State.upcoming, nextTick_pins_scheduled x p ps (hx.trans hsch), nextTick_schedule, hx]
    simpa [hsch] using hrest

/-- Ticks of reset, at least one: the last of them leads to the reset elements whatever the others did. -/
theorem runsTo_isReset {n : Nat} {s : State} (h : List.replicate (n + 1) true <+: s.upcoming.map Pins.rst) :
    ∃ t, RunsTo (n + 1) s t ∧ t.isReset ∧ t.params = s.params := by
  induction n generalizing s with
  | zero =>
    obtain ⟨hrst, -⟩ := rst_cons h
    exact ⟨_, runsTo_one (step_reset s hrst), isReset_after_reset s, by simp⟩
  | succ n ih =>
    obtain ⟨hrst, hrest⟩ := rst_cons h
    obtain ⟨t, hrun, hreset, hparams⟩ := ih (hrest s.resetBlock rfl)
    exact ⟨t, runsTo_succ (step_reset s hrst) hrun, hreset, by simpa using hparams⟩

/-- A block in `IDLE` accepts a command on the first tick without reset. -/
theorem accepts_after_reset {t : State} (hidle : t.phase = .idle) (hrst : t.pins.rst = false) (hstart : t.pins.start = true) :
    ∃ u, step t = .next u ∧ u.phase = .hsLow ∧ u.variantQ = t.pins.variant :=
  ⟨_, step_idle_read t hrst hidle hstart, by simp, by simp⟩

/-- Settles O41, by the two branches of R160's step, and by induction on the number of ticks of reset. -/
theorem resetOverridesEverything : Obligations.ResetOverridesEverything := by
  unfold Obligations.ResetOverridesEverything
  refine fun s => ⟨step_reset s, fun hrst => ?_, fun n hn hreset => ?_⟩
  · obtain ⟨t, ht⟩ := exec_answers s.phase.instr s
    exact ⟨t, ht, step_next_of_exec hrst ht⟩
  · obtain ⟨n, rfl⟩ := Nat.exists_eq_add_of_le' hn
    obtain ⟨t, hrun, ht, hparams⟩ := runsTo_isReset hreset
    obtain ⟨hbusy, hline, hdone, hstatus, hvalid⟩ := outputs_of_isReset ht
    exact ⟨t, hrun, ht, hparams, hbusy, hline, hdone, hstatus, hvalid, accepts_after_reset ((busy_eq_false_iff t).mp hbusy)⟩

end Sys2Proof.Machine
end

section
/-! The length of a read (spec/70_reset_and_hazards.md R171): from the tick that accepts the command to the tick that
shows `done`, within the bound on any line, and exactly on a line that stays High or Low. -/

namespace Sys2Proof.Machine

/-! ### The end of a read shows `done` -/

/-- A block that has been busy since its command was accepted shows `done` exactly when it is back in `IDLE`: it stands
in one read with itself. -/
theorem done_iff_idle_of_accepted {s t : State} {v : Variant} {ls : List Level} {n : Nat} (hn : n ≤ ls.length)
    (hh : (s.acceptRead v).nextTick.hears ls)
    (hbusy : ∀ k < n, ∃ u, RunsTo k (s.acceptRead v).nextTick u ∧ busy u = true)
    (hrun : RunsTo n (s.acceptRead v).nextTick t) : t.done = true ↔ t.phase = .idle := by
  have hlen : (ls.take n).length = n := List.length_take_of_le hn
  have hheard : (s.acceptRead v).nextTick.hears (ls.take n) := hears_prefix (b := ls.drop n) (by rwa [List.take_append_drop])
  obtain ⟨t', t'', hrun', -, hread⟩ := (inOneRead_accept rfl v).run hheard hheard (by rwa [hlen])
  rw [hlen] at hrun'
  exact runsTo_unique hrun' hrun ▸ hread.done_left

/-- A block busy on the `n` ticks after a first step, with the ticks counted from the state before that step. -/
theorem busy_after_step {s u : State} {n : Nat} (hstep : step s = .next u)
    (h : ∀ k < n, ∃ t, RunsTo k u t ∧ busy t = true) {k : Nat} (hk : 1 ≤ k) (hkn : k ≤ n) :
    ∃ t, RunsTo k s t ∧ busy t = true := by
  obtain ⟨j, rfl⟩ := Nat.exists_eq_add_of_le' hk
  obtain ⟨t, hrun, hbusy⟩ := h j hkn
  exact ⟨t, runsTo_succ hstep hrun, hbusy⟩

/-- Settles O31: the ticks a read may still last bound the number of ticks until the first in `IDLE`. -/
theorem everyReadEndsWithinTheBound : Obligations.EveryReadEndsWithinTheBound := by
  unfold Obligations.EveryReadEndsWithinTheBound
  intro s v haccept hpos hquiet
  have hstep := step_acceptsRead haccept
  obtain ⟨line, hlen, hh⟩ := noReset_hears hquiet
  obtain ⟨l, ls, rfl⟩ := List.exists_cons_of_length_eq_add_one hlen
  have hheard := hears_of_step hh hstep
  have hbound : (s.acceptRead v).nextTick.ticksLeft ≤ busyBound s.params (holdTime s.params v) := by
    rw [ticksLeft_nextTick]
    exact ticksLeft_le_busyBound (s.acceptRead v)
  have hle : (s.acceptRead v).nextTick.ticksLeft ≤ ls.length := hbound.trans_eq (Nat.succ.inj hlen).symm
  obtain ⟨n, hn, hbusy, t, hrun, hidle⟩ := reaches_idle (by simpa using hpos)
    (cntInPhase_of_zero (by simpa using hpos) (by simp)) hheard hle
  have hdone := done_iff_idle_of_accepted (hn.trans hle) hheard hbusy hrun
  exact ⟨n, hn.trans hbound, fun k => busy_after_step hstep hbusy, t, runsTo_succ hstep hrun, hidle, hdone.mpr hidle⟩

/-! ### A read was busy until it shows `done`

Where no command comes, a block in `IDLE` clears `done` and stays: if `done` shows at the end of a run, no earlier tick was
in `IDLE`. A busy block ignores its commands, so the same holds of every block that hears the line. -/

/-- The inputs of a tick with a level on the line, without reset and without a command. -/
def quietAt (l : Level) : Pins := { quietPins with lineIn := l }

/-- The block of `x` with a line to hear and no command on any tick of it. -/
def State.playing (x : State) (l : Level) (ls : List Level) : State :=
  { x with pins := quietAt l, schedule := ls.map quietAt }

theorem playing_upcoming (x : State) (l : Level) (ls : List Level) :
    (x.playing l ls).upcoming = (l :: ls).map quietAt := rfl

theorem playing_hears (x : State) (l : Level) (ls : List Level) : (x.playing l ls).hears (l :: ls) := by
  rw [State.hears, playing_upcoming, List.map_map]
  exact List.prefix_rfl

theorem playing_quietFor (x : State) (l : Level) (ls : List Level) {n : Nat} (hn : n ≤ (l :: ls).length) :
    (x.playing l ls).quietFor n := by
  rw [State.quietFor, playing_upcoming, List.length_map]
  refine ⟨hn, fun p hp => ?_⟩
  obtain ⟨l', -, rfl⟩ := List.mem_map.mp (List.mem_of_mem_take hp)
  exact ⟨rfl, rfl⟩

theorem quietFor_of_step {s t : State} {n : Nat} (h : s.quietFor (n + 1)) (hs : step s = .next t) : t.quietFor n := by
  obtain ⟨-, -, hrest⟩ := quietFor_succ h
  obtain ⟨x, rfl, -, -, hschedule, -⟩ := step_sameEnvironment hs
  exact hrest x hschedule

/-- Ticks without a command, at the end of which `done` shows, were busy up to that end. -/
theorem busy_of_quiet_run {k n : Nat} {s t : State} (hq : s.quietFor n) (hrun : RunsTo n s t) (hdone : t.done = true)
    (hk : k < n) : ∃ u, RunsTo k s u ∧ busy u = true := by
  obtain ⟨m, rfl⟩ := Nat.exists_eq_add_of_lt hk
  induction k generalizing s with
  | zero =>
    refine ⟨s, runsTo_zero s, ?_⟩
    rw [Nat.zero_add] at hq hrun
    by_contra hbusy
    obtain ⟨t', hrun', hblock⟩ := runsTo_quiet ((busy_eq_false_iff s).mp (Bool.eq_false_of_not_eq_true hbusy)) hq
    obtain ⟨-, -, -, -, -, -, -, -, hcleared, -⟩ := (block_eq_iff _ _).mp (runsTo_unique hrun' hrun ▸ hblock)
    simp [hdone] at hcleared
  | succ k ih =>
    obtain ⟨u, hstep⟩ := everyStateHasANextState s
    rw [show k + 1 + m + 1 = k + m + 1 + 1 by omega] at hq hrun
    obtain ⟨v, hv, hbusy⟩ := ih (quietFor_of_step hq hstep) (runsTo_tail hstep hrun) (by omega)
    exact ⟨v, runsTo_succ hstep hv, hbusy⟩

theorem sameRead_of_block_eq {s t : State} (h : s.block = t.block) : SameRead s t := by
  obtain ⟨hphase, hcnt, hbyte, hbit, hsh, hframe, hvariant, hresp, -, -, -, -, -, hparams⟩ := (block_eq_iff s t).mp h
  exact ⟨hphase, hcnt, hbyte, hbit, hsh, hframe, hvariant, hresp, hparams⟩

/-- Two blocks in one read are busy on the same ticks of a common line, up to the end of the read. -/
theorem InOneRead.busy_right {s1 s2 : State} {ls : List Level} {n : Nat} (h : InOneRead s1 s2) (hh1 : s1.hears ls)
    (hh2 : s2.hears ls) (hn : n ≤ ls.length) (hbusy : ∀ k < n, ∃ u, RunsTo k s1 u ∧ busy u = true) :
    ∀ k < n, ∃ u, RunsTo k s2 u ∧ busy u = true := by
  intro k hk
  have hlen : (ls.take k).length = k := List.length_take_of_le (by omega)
  have hheard {s : State} (hh : s.hears ls) : s.hears (ls.take k) :=
    hears_prefix (b := ls.drop k) (by rwa [List.take_append_drop])
  obtain ⟨t1, t2, hrun1, hrun2, ⟨hsame, -⟩, -⟩ :=
    h.run (hheard hh1) (hheard hh2) fun j hj => hbusy j (by omega)
  rw [hlen] at hrun1 hrun2
  obtain ⟨u, hrun, hu⟩ := hbusy k hk
  obtain rfl := runsTo_unique hrun1 hrun
  obtain ⟨hphase, -⟩ := hsame
  refine ⟨t2, hrun2, ?_⟩
  rwa [busy, ← hphase]

/-- An accepted read that comes to show `done` was busy on every tick before. -/
theorem LeadsTo.busy_until_done {n : Nat} {s y : State} {v : Variant} {ls rest : List Level}
    (h : LeadsTo n (s.acceptRead v) ls y rest) (hdone : y.done = true) (hn : n ≤ ls.length)
    (hh : (s.acceptRead v).nextTick.hears ls) :
    ∀ k < n, ∃ u, RunsTo k (s.acceptRead v).nextTick u ∧ busy u = true := by
  cases ls with
  | nil => exact fun k hk => absurd (hk.trans_le hn) (Nat.not_lt_zero k)
  | cons l ls =>
    have hheard := playing_hears (s.acceptRead v) l ls
    obtain ⟨t, hrun, hblock, -⟩ := h ((s.acceptRead v).playing l ls) rfl hheard
    obtain ⟨-, -, -, -, -, -, -, -, htdone, -⟩ := (block_eq_iff t y).mp hblock
    have hread : InOneRead ((s.acceptRead v).playing l ls) (s.acceptRead v).nextTick :=
      ⟨⟨sameRead_of_block_eq (block_nextTick (s.acceptRead v)).symm, fun hidle => by cases hidle⟩,
        by simp [State.playing], by simp⟩
    exact hread.busy_right hheard hh hn fun k =>
      busy_of_quiet_run (playing_quietFor _ l ls hn) hrun (htdone.trans hdone)

/-- A read along a line that leads to the end of it: busy on the ticks of the line, `done` on the next. -/
theorem read_ends {n : Nat} {s y : State} {v : Variant} {l : Level} {ls rest : List Level} (haccept : s.acceptsRead v)
    (hh : s.hears (l :: ls)) (h : LeadsTo n (s.acceptRead v) ls y rest) (hdone : y.done = true) (hn : n ≤ ls.length) :
    (∀ k, 1 ≤ k → k ≤ n → ∃ t, RunsTo k s t ∧ busy t = true) ∧
      ∃ t, RunsTo (n + 1) s t ∧ t.block = y.block := by
  have hstep := step_acceptsRead haccept
  have hheard := hears_of_step hh hstep
  obtain ⟨t, hrun, hblock, -⟩ := h _ (block_nextTick _) hheard
  exact ⟨fun k => busy_after_step hstep (h.busy_until_done hdone hn hheard), t, runsTo_succ hstep hrun, hblock⟩

/-! ### The dead lines -/

/-- The end of a read that `s` accepted and that got no response: the Reading is the one of before. -/
def State.deadEnd (s : State) (v : Variant) : State :=
  (((s.acceptRead v).setResponse .failure).goto .hsRelease).complete .noResponse

/-- What a state with the block of that end shows. -/
theorem deadEnd_shows {s t : State} {v : Variant} (h : t.block = (s.deadEnd v).block) :
    t.phase = .idle ∧ t.done = true ∧ t.status = .noResponse ∧ t.respOk = .failure ∧
      t.readingValid = s.readingValid ∧ t.humRaw = s.humRaw ∧ t.tempRaw = s.tempRaw := by
  obtain ⟨hphase, -, -, -, -, -, -, hresp, hdone, hstatus, hvalid, hhum, htemp, -⟩ := (block_eq_iff _ _).mp h
  exact ⟨hphase, hdone, hstatus, hresp, hvalid, hhum, htemp⟩

section DeadLine
variable {s : State} {v : Variant} (hpos : s.params.positive = true) {lead : List Level}
  (hlead : lead.length = holdTime s.params v + s.params.tReady)
include hpos hlead

/-- High throughout: the first sample is a FAILURE, and the release wait comes to its deadline. -/
theorem highLine_leadsTo :
    LeadsTo (lead.length + (s.params.tAck1 + 1) + s.params.tTimeout) (s.acceptRead v)
      (lead ++ List.replicate (s.params.tAck1 + 1 + s.params.tTimeout) .high) (s.deadEnd v) [] := by
  have htimeout : 1 ≤ s.params.tTimeout := by
    simp only [Params.positive, decide_eq_true_eq] at hpos
    omega
  have hline : List.replicate (s.params.tAck1 + 1 + s.params.tTimeout) Level.high =
      List.replicate s.params.tAck1 .high ++ .high :: List.replicate s.params.tTimeout .high := by
    rw [Nat.add_assoc, List.replicate_add, Nat.add_comm 1, List.replicate_succ]
  have hwait := hsRelease_leadsTo_deadline (x := ((s.acceptRead v).setResponse .failure).goto .hsRelease) rfl rfl htimeout []
  rw [List.append_nil] at hwait
  rw [hline]
  exact (drives_leadsTo_firstAck (x := s.acceptRead v) rfl rfl hpos hlead List.length_replicate _ .high).trans hwait

/-- Low throughout: the second sample is a FAILURE, and the release wait sees Low at once. -/
theorem lowLine_leadsTo :
    LeadsTo (lead.length + (s.params.tAck1 + 1) + s.params.tAck2 + 1) (s.acceptRead v)
      (lead ++ List.replicate (s.params.tAck1 + 1 + s.params.tAck2 + 1) .low) (s.deadEnd v) [] := by
  obtain ⟨hack, htimeout⟩ : 1 ≤ s.params.tAck2 ∧ 0 < s.params.tTimeout := by
    simp only [Params.positive, decide_eq_true_eq] at hpos
    omega
  obtain ⟨m, hm⟩ := Nat.exists_eq_add_of_le' hack
  have hline : List.replicate (s.params.tAck1 + 1 + s.params.tAck2 + 1) Level.low =
      List.replicate s.params.tAck1 .low ++ .low :: (List.replicate m .low ++ .low :: [.low]) := by
    rw [show s.params.tAck1 + 1 + s.params.tAck2 + 1 = s.params.tAck1 + (m + 2 + 1) by omega, List.replicate_add,
      List.replicate_succ, List.replicate_add]
    rfl
  rw [hline]
  exact (drives_leadsTo_secondAck (x := s.acceptRead v) rfl rfl hpos hlead List.length_replicate _
    (by rw [List.length_replicate]; exact hm.symm) .low).trans
      (hsRelease_leadsTo_low (x := (s.acceptRead v).secondAck .low) rfl rfl htimeout [])

end DeadLine

/-- Settles O29: each dead line leads the accepted read to `NO_RESPONSE`, and the read was busy until then. -/
theorem deadLinesGiveNoResponse : Obligations.DeadLinesGiveNoResponse := by
  unfold Obligations.DeadLinesGiveNoResponse
  intro s v l lead busyTicks haccept hpos hlead
  refine ⟨fun hticks hh => ?_, fun hticks hh => ?_⟩
  · obtain rfl : lead.length + (s.params.tAck1 + 1) + s.params.tTimeout = busyTicks := by omega
    obtain ⟨hbusy, t, hrun, hblock⟩ := read_ends haccept hh (highLine_leadsTo hpos hlead) rfl (by simp; omega)
    exact ⟨hbusy, t, hrun, deadEnd_shows hblock⟩
  · obtain rfl : lead.length + (s.params.tAck1 + 1) + s.params.tAck2 + 1 = busyTicks := by omega
    obtain ⟨hbusy, t, hrun, hblock⟩ := read_ends haccept hh (lowLine_leadsTo hpos hlead) rfl (by simp; omega)
    exact ⟨hbusy, t, hrun, deadEnd_shows hblock⟩

end Sys2Proof.Machine
end

section
/-! A read of the nominal sensor waveform (spec/30_encoding.md R71, spec/70_reset_and_hazards.md R172): the line that each
phase of the read hears of `SENSOR(d, f)`, the bits of `f` arriving in the frame store, and the length of the read. -/

namespace Sys2Proof.Machine

/-! ### One symbol of the waveform -/

/-- The level that a bit is sampled at. -/
def sampleOf (b : Bool) : Level := if b then .high else .low

/-- The ticks of High in the symbol of a bit. -/
def highWidth (b : Bool) : Nat := if b then 70 else 27

/-- The ticks of High after the sample of a bit. -/
def highTail (b : Bool) : Nat := if b then 29 else 0

/-- The ticks of Low that are left of an `L50` once the bit before it is complete. -/
def lowTail (b : Bool) : Nat := if b then 49 else 35

/-- What follows an `L50` of the waveform, with the bits still to come. -/
def afterLow : List Bool → List Level
  | [] => []
  | b :: bs => List.replicate (highWidth b) Level.high ++ (List.replicate 50 Level.low ++ afterLow bs)

theorem levelsOf_symbols (bs : List Bool) :
    levelsOf (bs.flatMap symbolOf ++ [(.low, 50)]) = List.replicate 50 Level.low ++ afterLow bs := by
  induction bs with
  | nil => rfl
  | cons b bs ih =>
    have hsplit : levelsOf ((b :: bs).flatMap symbolOf ++ [(.low, 50)]) =
        List.replicate 50 Level.low ++
          (List.replicate (highWidth b) Level.high ++ levelsOf (bs.flatMap symbolOf ++ [(.low, 50)])) := by
      simp only [levelsOf, symbolOf, highWidth, List.flatMap_cons, List.cons_append, List.nil_append]
    rw [hsplit, ih, afterLow]

/-- The High of a symbol and the `L50` after it, as the block hears them: the first High, the ticks of `BIT_DELAY` up to
the sample, the rest of the High, and the Low that completes the bit. -/
theorem symbol_heard (b : Bool) : ∃ waited : List Level, waited.length + 1 = 40 ∧ ∀ rest : List Level,
    List.replicate (highWidth b) Level.high ++ (List.replicate 50 Level.low ++ rest) =
      Level.high :: (waited ++ sampleOf b ::
        (List.replicate (highTail b) Level.high ++ Level.low :: (List.replicate (lowTail b) Level.low ++ rest))) := by
  cases b with
  | false => exact ⟨List.replicate 26 Level.high ++ List.replicate 13 Level.low, rfl, fun _ => rfl⟩
  | true => exact ⟨List.replicate 39 Level.high, rfl, fun _ => rfl⟩

/-- What a received bit makes of the state: it is shifted in, and then complete. -/
def State.receive (x : State) (b : Bool) : State := ((x.shiftBit (sampleOf b)).goto .bitWaitLow).bitComplete

/-- The block receives a bit of the waveform, after `g` ticks of Low. -/
theorem receive_leadsTo {x : State} (hp : x.phase = .bitWaitHigh) (hc : x.cnt = 0) (hbit : x.params.tBit = 40)
    (htimeout : 80 < x.params.tTimeout) {g : Nat} (hg : g ≤ 49) (b : Bool) (bs : List Bool) :
    LeadsTo (g + (42 + highTail b)) x (List.replicate g Level.low ++ afterLow (b :: bs)) (x.receive b)
      (List.replicate (lowTail b) Level.low ++ afterLow bs) := by
  have htail : highTail b < x.params.tTimeout := by
    cases b <;> simp [highTail] <;> omega
  obtain ⟨waited, hlen, hline⟩ := symbol_heard b
  rw [afterLow, hline, show g + (42 + highTail b) = g + 1 + x.params.tBit + (highTail b + 1) by omega]
  exact symbol_leadsTo_bitComplete hp hc (by omega) (hlen.trans hbit.symm) (sampleOf b) htail _

/-! ### The frame store along the bits of a frame -/

theorem shiftIn_getLsbD_succ (sh : Byte) (b : Level) {j : Nat} (hj : j < 7) :
    (shiftIn sh b).getLsbD (j + 1) = sh.getLsbD j := by
  have hin : j + 1 < 8 := by omega
  simp [shiftIn, hin, BitVec.getLsbD_eq_getElem (show j < 8 by omega)]

theorem shiftIn_sampleOf_getLsbD_zero (sh : Byte) (b : Bool) : (shiftIn sh (sampleOf b)).getLsbD 0 = b := by
  rw [Bool.eq_iff_iff, shiftIn_getLsbD_zero]
  cases b <;> simp [sampleOf]

/-- The bit of `f` that comes at the position of `x`. -/
def State.expectedBit (x : State) (f : RawFrame) : Bool := (readByte f x.byteIdx).getLsbD (7 - x.bitCnt.val)

/-- `x` waits for a bit of `f`, and the bits before it have arrived: the bytes below `byte_idx` stand in the frame store,
and the first `bit_cnt` bits of the byte at `byte_idx` at the bottom of the shift register. -/
structure AwaitsBit (f : RawFrame) (x : State) : Prop where
  phase : x.phase = .bitWaitHigh
  cnt : x.cnt = 0
  bytes : ∀ i < x.byteIdx, readByte x.frame i = readByte f i
  bits : ∀ j < x.bitCnt.val, x.sh.getLsbD j = (readByte f x.byteIdx).getLsbD (8 - x.bitCnt.val + j)

/-- The wait for the first bit. -/
theorem awaitsBit_first {f : RawFrame} {x : State} (hp : x.phase = .bitWaitHigh) (hc : x.cnt = 0) (hbyte : x.byteIdx = 0)
    (hbit : x.bitCnt = 0) : AwaitsBit f x where
  phase := hp
  cnt := hc
  bytes := by simp [hbyte]
  bits := by simp [hbit]

/-- The shift register with the expected bit shifted in holds one bit of the byte more. -/
theorem AwaitsBit.shifted {f : RawFrame} {x : State} (h : AwaitsBit f x) {j : Nat} (hj : j < x.bitCnt.val + 1) :
    (shiftIn x.sh (sampleOf (x.expectedBit f))).getLsbD j = (readByte f x.byteIdx).getLsbD (7 - x.bitCnt.val + j) := by
  have hcount := x.bitCnt.isLt
  cases j with
  | zero => exact shiftIn_sampleOf_getLsbD_zero x.sh _
  | succ j =>
    rw [shiftIn_getLsbD_succ _ _ (by omega), h.bits j (by omega)]
    exact congrArg _ (by omega)

/-- The eighth bit makes the byte whole. -/
theorem AwaitsBit.shifted_byte {f : RawFrame} {x : State} (h : AwaitsBit f x) (hbit : x.bitCnt = 7) :
    shiftIn x.sh (sampleOf (x.expectedBit f)) = readByte f x.byteIdx := by
  refine BitVec.eq_of_getLsbD_eq fun j hj => ?_
  have key := h.shifted (j := j) (by rw [hbit]; exact hj)
  rw [hbit] at key
  exact key.trans (congrArg _ (Nat.zero_add j))

/-- With that byte stored at `byte_idx`, all bytes up to it are those of `f`. -/
theorem AwaitsBit.stored {f : RawFrame} {x : State} (h : AwaitsBit f x) (hbit : x.bitCnt = 7) {i : ByteIdx}
    (hi : i ≤ x.byteIdx) :
    readByte (writeByte x.frame x.byteIdx (shiftIn x.sh (sampleOf (x.expectedBit f)))) i = readByte f i := by
  rw [h.shifted_byte hbit, readByte_writeByte]
  split_ifs with heq
  · rw [heq]
  · exact h.bytes i (lt_of_le_of_ne hi heq)

/-- What the block makes of the expected bit: it waits for the next, or it has the whole frame. -/
theorem AwaitsBit.receive {f : RawFrame} {x : State} (h : AwaitsBit f x) :
    (x.bitNumber < 39 → AwaitsBit f (x.receive (x.expectedBit f))) ∧
    (x.bitNumber = 39 → (x.receive (x.expectedBit f)).frame = f) := by
  obtain ⟨hbit, hx⟩ | ⟨hbit, hbyte, hx⟩ | ⟨hbit, hbyte, hx⟩ :=
    bitComplete_cases ((x.shiftBit (sampleOf (x.expectedBit f))).goto .bitWaitLow)
  · have hlt : x.bitCnt.val < 7 := Fin.val_lt_last hbit
    have hval : (x.bitCnt + 1).val = x.bitCnt.val + 1 := Fin.val_add_one_of_lt' (by omega)
    refine ⟨fun _ => ?_, fun hlast => absurd ((bitNumber_eq_last_iff x).mp hlast).1 hbit⟩
    rw [State.receive, hx]
    refine ⟨rfl, rfl, h.bytes, fun j hj => ?_⟩
    have hj' : j < x.bitCnt.val + 1 := hval ▸ hj
    refine (h.shifted hj').trans (congrArg _ ?_)
    change _ = 8 - (x.bitCnt + 1).val + j
    omega
  · refine ⟨fun _ => ?_, fun hlast => absurd ((bitNumber_eq_last_iff x).mp hlast).2 hbyte⟩
    rw [State.receive, hx]
    refine ⟨rfl, rfl, fun i hi => ?_, fun j hj => absurd hj (Nat.not_lt_zero j)⟩
    have le_of_lt_succ : ∀ k i : ByteIdx, k ≠ 4 → i < k + 1 → i ≤ k := by decide
    exact h.stored hbit (le_of_lt_succ x.byteIdx i hbyte hi)
  · refine ⟨fun hlt => absurd ((bitNumber_eq_last_iff x).mpr ⟨hbit, hbyte⟩) hlt.ne, fun _ => ?_⟩
    rw [State.receive, hx]
    exact frame_ext_bytes _ _ fun i => h.stored hbit ((Fin.le_last i).trans_eq hbyte.symm)

/-- Of the bits of a frame from the position of `x` on, the first is the one that `x` expects. -/
theorem drop_frameBits (f : RawFrame) (x : State) :
    (frameBits f).drop x.bitNumber = x.expectedBit f :: (frameBits f).drop (x.bitNumber + 1) := by
  obtain ⟨-, -, hbits⟩ := frameWordAndBytesAgree
  obtain ⟨-, hbit⟩ := hbits f x.byteIdx x.bitCnt.val x.bitCnt.isLt
  obtain ⟨hlt, hget⟩ := List.getElem?_eq_some_iff.mp hbit
  exact (List.drop_eq_getElem_cons hlt).trans (congrArg (· :: _) hget)

theorem frameBits_length (f : RawFrame) : (frameBits f).length = 40 := by
  simp [frameBits]

/-! ### The whole frame -/

/-- The two states have the same parameters and the same Reading. -/
def SameReading (x y : State) : Prop :=
  y.params = x.params ∧ y.readingValid = x.readingValid ∧ y.humRaw = x.humRaw ∧ y.tempRaw = x.tempRaw

theorem SameReading.trans {x y z : State} (h1 : SameReading x y) (h2 : SameReading y z) : SameReading x z := by
  obtain ⟨hparams1, hvalid1, hhum1, htemp1⟩ := h1
  obtain ⟨hparams2, hvalid2, hhum2, htemp2⟩ := h2
  exact ⟨hparams2.trans hparams1, hvalid2.trans hvalid1, hhum2.trans hhum1, htemp2.trans htemp1⟩

theorem sameReading_receive (x : State) (b : Bool) : SameReading x (x.receive b) := by
  obtain ⟨-, hx⟩ | ⟨-, -, hx⟩ | ⟨-, -, hx⟩ := bitComplete_cases ((x.shiftBit (sampleOf b)).goto .bitWaitLow) <;>
  · rw [State.receive, hx]
    exact ⟨rfl, rfl, rfl, rfl⟩

/-- The position after a bit that is not the last. -/
theorem bitNumber_receive {x : State} (h : x.bitNumber < 39) (b : Bool) : (x.receive b).bitNumber = x.bitNumber + 1 :=
  (bitComplete_advances (s := (x.shiftBit (sampleOf b)).goto .bitWaitLow) h).2

/-- The ticks from `g` ticks of Low before the first of some bits to the completion of the last. -/
def bitsTicks (g : Nat) : List Bool → Nat
  | [] => 0
  | b :: bs => g + (42 + highTail b) + bitsTicks (lowTail b) bs

/-- The block receives the bits of `f` that are still to come, goes to `VALIDATE` with the frame `f`, and still hears Low.
The induction is on those bits. -/
theorem frame_leadsTo {f : RawFrame} {bs : List Bool} {x : State} {g : Nat} (h : AwaitsBit f x)
    (hbs : (frameBits f).drop x.bitNumber = bs) (hbit : x.params.tBit = 40) (htimeout : 80 < x.params.tTimeout)
    (hg : g ≤ 49) :
    ∃ y rest, LeadsTo (bitsTicks g bs) x (List.replicate g Level.low ++ afterLow bs) y (Level.low :: rest) ∧
      y.phase = .validate ∧ y.frame = f ∧ SameReading x y := by
  induction bs generalizing x g with
  | nil =>
    rw [drop_frameBits] at hbs
    cases hbs
  | cons b bs ih =>
    rw [drop_frameBits] at hbs
    obtain ⟨rfl, hrest⟩ := List.cons.inj hbs
    have hreceive := receive_leadsTo h.phase h.cnt hbit htimeout hg (x.expectedBit f) bs
    obtain ⟨hnext, hwhole⟩ := h.receive
    have hsame := sameReading_receive x (x.expectedBit f)
    obtain ⟨htail, hpos⟩ : lowTail (x.expectedBit f) ≤ 49 ∧ 1 ≤ lowTail (x.expectedBit f) := by
      cases x.expectedBit f <;> decide
    obtain hlt | hlast := (bitNumber_le x).lt_or_eq
    · have hparams : (x.receive (x.expectedBit f)).params = x.params := hsame.1
      obtain ⟨y, rest, hleads, hphase, hframe, hsame'⟩ := ih (hnext hlt)
        (by rw [bitNumber_receive hlt, hrest]) (hparams ▸ hbit) (hparams ▸ htimeout) htail
      exact ⟨y, rest, hreceive.trans hleads, hphase, hframe, hsame.trans hsame'⟩
    · rw [hlast, List.drop_of_length_le (frameBits_length f).le] at hrest
      subst hrest
      obtain ⟨m, hm⟩ := Nat.exists_eq_add_of_le' hpos
      rw [hm, List.replicate_succ] at hreceive
      obtain ⟨hphase, -⟩ := bitComplete_last (s := (x.shiftBit (sampleOf (x.expectedBit f))).goto .bitWaitLow) hlast
      exact ⟨_, _, hreceive, hphase, hwhole hlast, hsame⟩

/-- The ticks of some bits and a last one, by the values of the bits before the last. -/
theorem bitsTicks_append_last (bs : List Bool) (last : Bool) (g : Nat) :
    bitsTicks g (bs ++ [last]) = g + 77 * bs.count false + 120 * bs.count true + (42 + highTail last) := by
  induction bs generalizing g with
  | nil => simp [bitsTicks]
  | cons b bs ih =>
    rw [List.cons_append, bitsTicks, ih]
    cases b <;> simp [lowTail, highTail] <;> omega

/-- The last bit of a frame to arrive is the lowest of its checksum. -/
theorem frameBits_eq_append_last (f : RawFrame) : frameBits f = (frameBits f).take 39 ++ [f.checksum.getLsbD 0] := by
  obtain ⟨-, -, hbits⟩ := frameWordAndBytesAgree
  obtain ⟨-, hlast⟩ := hbits f 4 7 (by decide)
  have hall : (frameBits f).take (39 + 1) = frameBits f := List.take_of_length_le (frameBits_length f).le
  have hlast' : (frameBits f)[39]? = some (f.checksum.getLsbD 0) := hlast
  rw [List.take_add_one, hlast'] at hall
  exact hall.symm

/-- The waveform goes on for longer than its bits need. -/
theorem bitsTicks_lt (bs : List Bool) {g : Nat} (hg : 0 < g) : bitsTicks g bs < g + (afterLow bs).length := by
  induction bs generalizing g with
  | nil => exact hg
  | cons b bs ih =>
    have hrest := ih (g := lowTail b) (by cases b <;> decide)
    have hsymbol : 42 + highTail b + lowTail b = highWidth b + 50 := by cases b <;> rfl
    simp only [bitsTicks, afterLow, List.length_append, List.length_replicate]
    omega

/-! ### The handshake of the waveform -/

theorem replicate_eq_append_cons {a b n : Nat} (h : a + 1 + b = n) (l : Level) :
    List.replicate n l = List.replicate a l ++ l :: List.replicate b l := by
  rw [← h, Nat.add_assoc, List.replicate_add, Nat.add_comm 1, List.replicate_succ]

/-- The waveform as the block hears it, after a response delay of `d` ticks: Low at the first sample, High at the second,
and the Low that ends the release wait. -/
theorem sensorWave_heard {d e : Nat} (h : d + e = 40) (f : RawFrame) :
    levelsOf (sensorWave d f) =
      (List.replicate d Level.high ++ List.replicate e Level.low) ++
        Level.low :: ((List.replicate (d + 39) Level.low ++ List.replicate e Level.high) ++
          Level.high :: (List.replicate (d + 39) Level.high ++
            Level.low :: (List.replicate 49 Level.low ++ afterLow (frameBits f)))) := by
  have hsplit : levelsOf (sensorWave d f) = List.replicate d Level.high ++ (List.replicate 80 Level.low ++
      (List.replicate 80 Level.high ++ levelsOf ((frameBits f).flatMap symbolOf ++ [(.low, 50)]))) := by
    simp only [levelsOf, sensorWave, List.flatMap_append, List.flatMap_cons, List.flatMap_nil, List.append_assoc,
      List.append_nil]
  rw [hsplit, levelsOf_symbols, replicate_eq_append_cons (n := 80) (a := e) (b := d + 39) (by omega) .low,
    replicate_eq_append_cons (n := 80) (a := e) (b := d + 39) (by omega) .high,
    replicate_eq_append_cons (a := 0) (b := 49) rfl .low]
  simp only [List.append_assoc, List.cons_append, List.replicate_zero, List.nil_append]

/-- The ticks from the end of the drives to the end of `VALIDATE`, with the waveform on the line. -/
def sensorTicks (d : Nat) (f : RawFrame) : Nat := 41 + 80 + (d + 39 + 1) + bitsTicks 49 (frameBits f) + 1

theorem sensorTicks_le_length {d : Nat} (hd : d ≤ 40) (f : RawFrame) :
    sensorTicks d f ≤ (levelsOf (sensorWave d f)).length := by
  obtain ⟨e, he⟩ := Nat.exists_eq_add_of_le hd
  have hbits := bitsTicks_lt (frameBits f) (g := 49) (by decide)
  rw [sensorWave_heard he.symm]
  simp only [sensorTicks, List.length_append, List.length_cons, List.length_replicate]
  omega

/-- The count of R172, without the drives. -/
theorem sensorTicks_eq (d : Nat) (f : RawFrame) :
    sensorTicks d f = d + 253 + 77 * ((frameBits f).take 39).count false + 120 * ((frameBits f).take 39).count true +
      (if f.checksum.getLsbD 0 = true then 29 else 0) := by
  have hbits : bitsTicks 49 (frameBits f) = _ :=
    (congrArg (bitsTicks 49) (frameBits_eq_append_last f)).trans (bitsTicks_append_last _ _ _)
  rw [sensorTicks, hbits, highTail]
  omega

/-! ### The whole read -/

theorem documented_of_wf {p : Params} (h : p.wf = true) :
    p.positive = true ∧ p.tReady = 20 ∧ p.tAck1 = 40 ∧ p.tAck2 = 80 ∧ p.tBit = 40 ∧ 80 < p.tTimeout := by
  simp only [Params.wf, Params.fitCounter, fitsCounter, Params.documented, Params.holdBFloor, Params.timeoutFloor,
    Bool.and_eq_true, decide_eq_true_eq] at h
  simp only [Params.positive, decide_eq_true_eq]
  omega

/-- What `VALIDATE` makes of the state: it delivers or discards the frame. -/
def State.validated (y : State) : State :=
  if frameValid y.frame = true then y.storeReading.complete .ok else y.complete .checksumMismatch

theorem validated_done (y : State) : y.validated.done = true := by
  unfold State.validated
  split_ifs <;> rfl

/-- A state with the block of a completed read shows the frame, and the Reading of a valid one. -/
theorem validated_shows {t y : State} (h : t.block = y.validated.block) :
    t.phase = .idle ∧ t.done = true ∧ t.frame = y.frame ∧
      (frameValid y.frame = true → t.status = .ok ∧ t.readingValid = true ∧
        t.humRaw.toNat = 256 * y.frame.humidityHigh.toNat + y.frame.humidityLow.toNat ∧
        t.tempRaw.toNat = 256 * y.frame.tempHigh.toNat + y.frame.tempLow.toNat) ∧
      (frameValid y.frame = false → t.status = .checksumMismatch ∧ SameReading y t) := by
  unfold State.validated at h
  split_ifs at h with hvalid
  · obtain ⟨hphase, -, -, -, -, hframe, -, -, hdone, hstatus, hreading, hhum, htemp, -⟩ := (block_eq_iff _ _).mp h
    refine ⟨hphase, hdone, hframe, fun _ => ⟨hstatus, hreading, ?_, ?_⟩, fun hinvalid => by simp [hvalid] at hinvalid⟩
    · rw [hhum]
      exact rawReading_toNat _ _
    · rw [htemp]
      exact rawReading_toNat _ _
  · obtain ⟨hphase, -, -, -, -, hframe, -, -, hdone, hstatus, hreading, hhum, htemp, hparams⟩ := (block_eq_iff _ _).mp h
    exact ⟨hphase, hdone, hframe, fun hgood => absurd hgood hvalid, fun _ => ⟨hstatus, hparams, hreading, hhum, htemp⟩⟩

/-- R120 along a line: the level is not looked at. -/
theorem validate_leadsTo {x : State} (hp : x.phase = .validate) (l : Level) (rest : List Level) :
    LeadsTo 1 x (l :: rest) x.validated rest := by
  refine leadsTo_of_stretch (ls := []) State.validated rfl rest (fun k e => ?_) (fun k hk => absurd hk (Nat.not_lt_zero k))
    fun e hr _ => step_validate (x.counted _ e) hr hp
  rw [State.validated, State.validated, apply_ite State.block, apply_ite State.block]
  rfl

/-- An accepted read of the waveform is led to the end of `VALIDATE`, with the frame and, until then, the Reading of
before. -/
theorem sensorWave_leadsTo {s : State} {v : Variant} (hwf : s.params.wf = true) {d : Nat} (hd : d ≤ 40) (f : RawFrame)
    {lead : List Level} (hlead : lead.length = holdTime s.params v + s.params.tReady) :
    ∃ y rest,
      LeadsTo (lead.length + sensorTicks d f) (s.acceptRead v) (lead ++ levelsOf (sensorWave d f)) y.validated rest ∧
        y.frame = f ∧ SameReading s y := by
  obtain ⟨hpos, -, hack1, hack2, hbit, htimeout⟩ := documented_of_wf hwf
  obtain ⟨e, he⟩ := Nat.exists_eq_add_of_le hd
  have hfirst : (List.replicate d Level.high ++ List.replicate e Level.low).length = s.params.tAck1 := by
    simp [hack1, he]
  have hsecond : (List.replicate (d + 39) Level.low ++ List.replicate e Level.high).length + 1 = s.params.tAck2 := by
    simp [hack2]
    omega
  have hhandshake := drives_leadsTo_secondAck (x := s.acceptRead v) rfl rfl hpos hlead hfirst
    (List.replicate (d + 39) Level.high ++ Level.low :: (List.replicate 49 Level.low ++ afterLow (frameBits f)))
    hsecond .high
  have hrelease := hsRelease_leadsTo_low (x := (s.acceptRead v).secondAck .high) rfl rfl
    (show d + 39 < s.params.tTimeout by omega) (List.replicate 49 Level.low ++ afterLow (frameBits f))
  obtain ⟨y, rest, hframe, hphase, hf, hsame⟩ := frame_leadsTo (f := f) (bs := frameBits f)
    (x := ((s.acceptRead v).secondAck .high).released) (g := 49) (awaitsBit_first rfl rfl rfl rfl) rfl hbit htimeout le_rfl
  have hread := ((hhandshake.trans hrelease).trans hframe).trans (validate_leadsTo hphase .low rest)
  have hticks : lead.length + (s.params.tAck1 + 1) + s.params.tAck2 + (d + 39 + 1) + bitsTicks 49 (frameBits f) + 1 =
      lead.length + sensorTicks d f := by
    rw [hack1, hack2, sensorTicks]
    omega
  rw [sensorWave_heard he.symm, ← hticks]
  exact ⟨y, rest, hread, hf, hsame⟩

/-- Settles O30: the whole line leads to `VALIDATE` with the frame `f`, and the bits of `f` count the ticks. -/
theorem nominalReadDeliversTheFrame : Obligations.NominalReadDeliversTheFrame := by
  unfold Obligations.NominalReadDeliversTheFrame
  intro s v l lead d f zeros ones busyTicks haccept hwf hd hlead hh hzeros hones hticks
  obtain ⟨-, hready, -⟩ := documented_of_wf hwf
  obtain rfl : lead.length + sensorTicks d f = busyTicks := by
    rw [sensorTicks_eq, ← hzeros, ← hones, hticks, hlead, hready]
    omega
  obtain ⟨y, rest, hread, rfl, hbefore⟩ := sensorWave_leadsTo hwf hd f hlead
  have hlength := sensorTicks_le_length hd y.frame
  obtain ⟨hbusy, t, hrun, hblock⟩ := read_ends haccept hh hread (validated_done y) (by simpa using hlength)
  obtain ⟨hphase, hdone, hframe, hgood, hbad⟩ := validated_shows hblock
  refine ⟨hbusy, t, hrun, hphase, hdone, hframe, hgood, fun hinvalid => ?_⟩
  obtain ⟨hstatus, hsame⟩ := hbad hinvalid
  obtain ⟨-, hreading⟩ := hbefore.trans hsame
  exact ⟨hstatus, hreading⟩

end Sys2Proof.Machine
end
